-- ==== Sys2Proof/Word.lean ====
section
/-! DEFINITION. The widths of the block (spec/00_scope.md R7, R9; spec/10_state.md R27): names only. Every value is an
unsigned number of a stated width; bit 0 is the least significant bit. -/

namespace Sys2Proof

/-- `u8`: a byte of the message, of the digest or of the hex text. -/
abbrev Byte := BitVec 8

/-- `u32`: a Hash State word, a working variable, a block word, a round constant (R7 `WORD`). -/
abbrev Word := BitVec 32

/-- `u64`: an address, a length, the data field of a host transaction. -/
abbrev DWord := BitVec 64

/-- A host transaction record, format `HT`: 131 bits (spec/30_encoding.md R81). -/
abbrev Record := BitVec 131

/-- The round index `i`, register `RND` (R27). -/
abbrev Round := BitVec 6

end Sys2Proof
end

