-- ==== Sys2Proof/Syntax.lean ====
section
/-! DEFINITION. The operations of the block: one constructor of `Instr` per row of spec/opcode_table.json, the formats
their encodings come in (spec/30_encoding.md R80), and the events of the host (spec/20_memory.md R69). -/

namespace Sys2Proof

/-- The rows of spec/opcode_table.json, in the table's order. -/
inductive Instr where
  /-- `START` (R182): a write of command word `0x01` to `CMD`. -/
  | start
  /-- `RENDER.DIG` (R213): a write of command word `0x02` to `CMD`. -/
  | renderDig
  /-- `RENDER.MSG` (R214): a write of command word `0x0A` to `CMD`. -/
  | renderMsg
  /-- `HWR.REG.CMD.ILLEGAL` (R235, R93): a write of any other command word to `CMD`. -/
  | hwrRegCmdIllegal (cw : Byte)
  /-- `HWR.REG.LEN` (R235): a write of `LEN`. -/
  | hwrRegLen (data : DWord)
  /-- `HWR.REG` (R235): a write of any register number but 0 and 2. -/
  | hwrReg (addr data : DWord)
  /-- `HWR.MSG` (R236): a write of one message byte, `data[7:0]`. -/
  | hwrMsg (addr : DWord) (value : Byte)
  /-- `HWR.DIG` (R237). -/
  | hwrDig (addr data : DWord)
  /-- `HWR.HEXO` (R237). -/
  | hwrHexo (addr data : DWord)
  /-- `HRD.REG` (R231). -/
  | hrdReg (addr : DWord)
  /-- `HRD.MSG` (R232). -/
  | hrdMsg (addr : DWord)
  /-- `HRD.DIG` (R233). -/
  | hrdDig (addr : DWord)
  /-- `HRD.HEXO` (R234). -/
  | hrdHexo (addr : DWord)
  /-- `LOADBLK` (R135). -/
  | loadblk
  /-- `COPYIN` (R154). -/
  | copyin
  /-- `ROUND.FF` (R155), round `i = 0 + j`. -/
  | roundFF (j : BitVec 4)
  /-- `ROUND.GG` (R156), round `i = 16 + j`. -/
  | roundGG (j : BitVec 4)
  /-- `ROUND.HH` (R157), round `i = 32 + j`. -/
  | roundHH (j : BitVec 4)
  /-- `ROUND.II` (R158), round `i = 48 + j`. -/
  | roundII (j : BitVec 4)
  /-- `ADDBACK` (R159). -/
  | addback
  /-- `SERIAL` (R186). -/
  | serial
  /-- `RSTEP` (R215). -/
  | rstep
  /-- `MIX.F` (R112). -/
  | mixF
  /-- `MIX.G` (R113). -/
  | mixG
  /-- `MIX.H` (R114). -/
  | mixH
  /-- `MIX.I` (R115). -/
  | mixI
  /-- `WIDX.0` (R117): `g = i mod 16`. -/
  | widx0
  /-- `WIDX.1` (R117): `g = (5*i + 1) mod 16`. -/
  | widx1
  /-- `WIDX.2` (R117): `g = (3*i + 5) mod 16`. -/
  | widx2
  /-- `WIDX.3` (R117): `g = (7*i) mod 16`. -/
  | widx3
  /-- `RESET` (R290): the reset input asserted. -/
  | reset
  deriving DecidableEq, Repr

/-- The formats of operations (R80). `QS` appears twice: each value of the quartile selector selects a mix formula and
a word-index formula together (R91), so the selector is decoded once for each. -/
inductive Format where
  /-- `HT`, 131 bits: a host transaction. -/
  | ht
  /-- `CW`, 8 bits: a command word. -/
  | cw
  /-- `SQ`, 9 bits: the sequencer word `{PH, RND}`. -/
  | sq
  /-- `QS`, 2 bits, read as the selector of the mix formula. -/
  | qsMix
  /-- `QS`, 2 bits, read as the selector of the word-index formula. -/
  | qsWidx
  /-- `SIG`, 1 bit: the reset input `rst`. -/
  | sig
  deriving DecidableEq, Repr

/-- The length of an operation in bits, known from its format alone (R80). -/
def Format.bits : Format → Nat
  | .ht => 131
  | .cw => 8
  | .sq => 9
  | .qsMix => 2
  | .qsWidx => 2
  | .sig => 1

/-- One turn of an execution, as the state's `inbox` lists those still to come (spec/20_memory.md R69): either the host
takes a step or the core is given a turn. DESIGN CHOICE, log 1; safe: every list is allowed, so every interleaving is. -/
inductive Event where
  /-- The host issues this transaction (R230). -/
  | ht (r : Record)
  /-- The level of the reset input at this turn: 1 asserts `RESET` (R290), 0 does nothing. -/
  | sig (rst : BitVec 1)
  /-- The mix formula of this quartile is evaluated on the present operands (log 7: no step of the block). -/
  | mix (q : BitVec 2)
  /-- The word-index formula of this quartile is evaluated on the present operand (log 7: no step of the block). -/
  | widx (q : BitVec 2)
  /-- The core is given a turn (R183). -/
  | core
  deriving DecidableEq, Repr

end Sys2Proof
end

