-- ==== Sys2Proof/WellFormed.lean ====
section
/-! DEFINITION. Which terms of `Instr` are operations of the table: spec/30_encoding.md R91 reads the rows of format `HT`
most specific first, so the two catch-all rows exclude what the rows above them take. -/

namespace Sys2Proof

/-- The three legal command words (R82). -/
def legalCommand (cw : Byte) : Bool :=
  cw == 0x01 || cw == 0x02 || cw == 0x0A

/-- The register numbers a host write reaches by a row of its own: `CMD` (0) and `LEN` (2) (R91). -/
def writableRegister (addr : DWord) : Bool :=
  addr == 0 || addr == 2

/-- An operation is well formed when some encoding decodes to it (R91). -/
def WellFormed : Instr → Bool
  | .start => true
  | .renderDig => true
  | .renderMsg => true
  | .hwrRegCmdIllegal cw => !legalCommand cw
  | .hwrRegLen _ => true
  | .hwrReg addr _ => !writableRegister addr
  | .hwrMsg _ _ => true
  | .hwrDig _ _ => true
  | .hwrHexo _ _ => true
  | .hrdReg _ => true
  | .hrdMsg _ => true
  | .hrdDig _ => true
  | .hrdHexo _ => true
  | .loadblk => true
  | .copyin => true
  | .roundFF _ => true
  | .roundGG _ => true
  | .roundHH _ => true
  | .roundII _ => true
  | .addback => true
  | .serial => true
  | .rstep => true
  | .mixF => true
  | .mixG => true
  | .mixH => true
  | .mixI => true
  | .widx0 => true
  | .widx1 => true
  | .widx2 => true
  | .widx3 => true
  | .reset => true

end Sys2Proof
end

