-- ==== Sys2Proof/Decode.lean ====
section
/-! DEFINITION. Decoding (spec/30_encoding.md R81 to R84, R91, R93), total on any bits and rejecting by name, and after it
the encoder, written from the same tables. -/

namespace Sys2Proof

/-- Why a word is no operation. None of these stops the machine (spec/43_digest_engine.md R183: the core then has no
step to take). -/
inductive Reject where
  /-- The word has a bit above its format's width (R80). -/
  | tooWide
  /-- `SQ` with `PH = 0`: the core has no step (R83). -/
  | idle
  /-- `SQ` with `PH = 7`: unreachable (R93 (c)). -/
  | unreachablePhase
  /-- `SIG` with `rst = 0`: the reset input is not asserted (R80). -/
  | notAsserted
  deriving DecidableEq, Repr

/-- Format `CW` (R82, R93 (a)): the command word decides the command. -/
def decodeCW (cw : Byte) : Instr :=
  if cw = 0x01 then .start
  else if cw = 0x02 then .renderDig
  else if cw = 0x0A then .renderMsg
  else .hwrRegCmdIllegal cw

/-- The fields of a host transaction (R81): `hdr = {wr, space}`, `addr`, `data`. -/
def htHdr (r : Record) : BitVec 3 := r.extractLsb' 128 3

def htAddr (r : Record) : DWord := r.extractLsb' 64 64

def htData (r : Record) : DWord := r.extractLsb' 0 64

/-- Format `HT`, fields taken apart (R91). -/
def decodeFields (hdr : BitVec 3) (addr data : DWord) : Instr :=
  match hdr.toNat with
  | 0 => .hrdReg addr
  | 1 => .hrdMsg addr
  | 2 => .hrdDig addr
  | 3 => .hrdHexo addr
  | 4 =>
    if addr = 0 then decodeCW (data.truncate 8)
    else if addr = 2 then .hwrRegLen data
    else .hwrReg addr data
  | 5 => .hwrMsg addr (data.truncate 8)
  | 6 => .hwrDig addr data
  | _ => .hwrHexo addr data

/-- Format `HT` (R91): every record is an operation. -/
def decodeHT (r : Record) : Instr :=
  decodeFields (htHdr r) (htAddr r) (htData r)

/-- The round of quartile `q` at position `j` (R83, R84). -/
def decodeRound (q : BitVec 2) (j : BitVec 4) : Instr :=
  match q.toNat with
  | 0 => .roundFF j
  | 1 => .roundGG j
  | 2 => .roundHH j
  | _ => .roundII j

/-- Format `SQ`, `{PH, RND}` with `RND = {q, j}` (R83). -/
def decodeSQ (w : BitVec 9) : Except Reject Instr :=
  match (w.extractLsb' 6 3).toNat with
  | 0 => .error .idle
  | 1 => .ok .loadblk
  | 2 => .ok .copyin
  | 3 => .ok (decodeRound (w.extractLsb' 4 2) (w.extractLsb' 0 4))
  | 4 => .ok .addback
  | 5 => .ok .serial
  | 6 => .ok .rstep
  | _ => .error .unreachablePhase

/-- Format `QS` as the selector of the mix formula (R84, R112 to R115). -/
def decodeMix (q : BitVec 2) : Instr :=
  match q.toNat with
  | 0 => .mixF
  | 1 => .mixG
  | 2 => .mixH
  | _ => .mixI

/-- Format `QS` as the selector of the word-index formula (R84, R117). -/
def decodeWidx (q : BitVec 2) : Instr :=
  match q.toNat with
  | 0 => .widx0
  | 1 => .widx1
  | 2 => .widx2
  | _ => .widx3

/-- Format `SIG` (R80, R290). -/
def decodeSIG (rst : BitVec 1) : Except Reject Instr :=
  if rst = 1 then .ok .reset else .error .notAsserted

/-- The operation a word of a format is, or the reason why it is none. -/
def decode (f : Format) (w : Nat) : Except Reject Instr :=
  if w < 2 ^ f.bits then
    match f with
    | .ht => .ok (decodeHT (BitVec.ofNat 131 w))
    | .cw => .ok (decodeCW (BitVec.ofNat 8 w))
    | .sq => decodeSQ (BitVec.ofNat 9 w)
    | .qsMix => .ok (decodeMix (BitVec.ofNat 2 w))
    | .qsWidx => .ok (decodeWidx (BitVec.ofNat 2 w))
    | .sig => decodeSIG (BitVec.ofNat 1 w)
  else .error .tooWide

/-- What a turn of the inbox asks for, but for a turn of the core (the core's word is `{PH, RND}`, Machine/Turn.lean). -/
def decodeEvent : Event → Except Reject Instr
  | .ht r => .ok (decodeHT r)
  | .sig rst => decodeSIG rst
  | .mix q => .ok (decodeMix q)
  | .widx q => .ok (decodeWidx q)
  | .core => .error .idle

/-- The format of a row of the opcode table by the number of its bits. In whole bytes a `QS` word and the `SIG` word are
both one byte, and one value of a `QS` word has two rows (R91): the byte 1 is read as `SIG`, any other byte as `QS`, and
a `QS` word as the selector of the mix formula, the first of its two rows. DESIGN CHOICE, log 8; safe. -/
def tableFormat (nbits w : Nat) : Format :=
  if 32 < nbits then .ht
  else if 8 < nbits then .sq
  else if nbits = 1 then .sig
  else if nbits = 2 then .qsMix
  else if w = 1 then .sig
  else .qsMix

/-- The instruction the decoder reads from a word of the opcode table, numbered as the table numbers it. -/
def decodeTableWord (nbits w : Nat) : Option Instr :=
  match decode (tableFormat nbits w) w with
  | .ok i => some i
  | .error _ => none

/-! ### The encoder -/

/-- A word with its format. -/
structure Encoded where
  format : Format
  word : Nat
  deriving DecidableEq, Repr

/-- The record `{hdr, addr, data}` (R81). -/
def htRecord (hdr : BitVec 3) (addr data : DWord) : Record :=
  (hdr ++ addr ++ data).cast (by decide)

def encodeHT (hdr : BitVec 3) (addr data : DWord) : Encoded :=
  ⟨.ht, (htRecord hdr addr data).toNat⟩

/-- The word `{PH, q, j}` (R83). -/
def sqRecord (ph : BitVec 3) (q : BitVec 2) (j : BitVec 4) : BitVec 9 :=
  (ph ++ q ++ j).cast (by decide)

def encodeSQ (ph : BitVec 3) (q : BitVec 2) (j : BitVec 4) : Encoded :=
  ⟨.sq, (sqRecord ph q j).toNat⟩

/-- The word of an operation (R81 to R84, R90, R96); ignored bits and the `rrrrrr` of a phase other than `ROUND` are 0. -/
def encode : Instr → Encoded
  | .start => encodeHT 4 0 0x01
  | .renderDig => encodeHT 4 0 0x02
  | .renderMsg => encodeHT 4 0 0x0A
  | .hwrRegCmdIllegal cw => encodeHT 4 0 (cw.zeroExtend 64)
  | .hwrRegLen data => encodeHT 4 2 data
  | .hwrReg addr data => encodeHT 4 addr data
  | .hwrMsg addr value => encodeHT 5 addr (value.zeroExtend 64)
  | .hwrDig addr data => encodeHT 6 addr data
  | .hwrHexo addr data => encodeHT 7 addr data
  | .hrdReg addr => encodeHT 0 addr 0
  | .hrdMsg addr => encodeHT 1 addr 0
  | .hrdDig addr => encodeHT 2 addr 0
  | .hrdHexo addr => encodeHT 3 addr 0
  | .loadblk => encodeSQ 1 0 0
  | .copyin => encodeSQ 2 0 0
  | .roundFF j => encodeSQ 3 0 j
  | .roundGG j => encodeSQ 3 1 j
  | .roundHH j => encodeSQ 3 2 j
  | .roundII j => encodeSQ 3 3 j
  | .addback => encodeSQ 4 0 0
  | .serial => encodeSQ 5 0 0
  | .rstep => encodeSQ 6 0 0
  | .mixF => ⟨.qsMix, 0⟩
  | .mixG => ⟨.qsMix, 1⟩
  | .mixH => ⟨.qsMix, 2⟩
  | .mixI => ⟨.qsMix, 3⟩
  | .widx0 => ⟨.qsWidx, 0⟩
  | .widx1 => ⟨.qsWidx, 1⟩
  | .widx2 => ⟨.qsWidx, 2⟩
  | .widx3 => ⟨.qsWidx, 3⟩
  | .reset => ⟨.sig, 1⟩

end Sys2Proof
end

