-- ==== Sys2Proof/Config.lean ====
section
/-! DEFINITION. What an implementation of the block fixes (spec/00_scope.md R8) and the free values of the model
(spec/00_scope.md R9 `draw`). None has a body: nothing in Lean can compute or prove a value of one. -/

namespace Sys2Proof

/-- `MSG_CAP`, the bytes of message memory: OPEN, `0 <= MSG_CAP <= 2^61 - 1` (R8), which are exactly the values of 61
bits. `State.cap` holds it; `State.reset` takes it from here. Log 2; safe: no proof can see it. -/
opaque Config.msgCap : BitVec 61

/-- `draw(u8)`: the `n`-th unspecified byte of a run (R9, spec/93_implementation_defined.md U4). Log 5; safe. -/
opaque Config.draw8 (n : Nat) : Byte

/-- `draw(u32)`: the `n`-th unspecified word of a run (R9, spec/10_state.md R40 `novalue`). Log 3, log 5. -/
opaque Config.draw32 (n : Nat) : Word

end Sys2Proof
end

