-- ==== Sys2Proof/Machine/State.lean ====
section
/-! DEFINITION. The state of the block (spec/10_state.md), the reasons a step can stop, and the state after reset
(spec/10_state.md R40). -/

namespace Sys2Proof.Machine

/-- The phase `PH` (R27). Seven names; the code 7 is never reached (spec/93_implementation_defined.md U6, log 13). -/
inductive Phase where
  | idle | load | copy | round | addback | serial | render
  deriving DecidableEq, Repr

/-- The source of a render, `RSRC` (R27): 0 the digest, 1 the message. -/
inductive Source where
  | digest | message
  deriving DecidableEq, Repr

/-- The cause of a refusal (spec/60_exceptions.md R261), as `ECODE` records it. -/
inductive Cause where
  | none | lenOverflow | msgRange | busyAccess | illegalCmd | srcNotValid | badWrite
  deriving DecidableEq, Repr

/-- Four words, in the order A, B, C, D: the Hash State `H` (R20) and the working variables `W` (R22). -/
structure Quad where
  a : Word
  b : Word
  c : Word
  d : Word
  deriving DecidableEq, Repr

/-- A byte memory: its written cells, addresses strictly rising. A cell that is not listed holds no value (R41, log 4). -/
abbrev Mem := List Host.Cell

/-- Every piece of state the spec gives the block (INVENTORY.md, State), and after `hexo` the model's own fields. -/
structure State where
  /-- `H[0..3]`, the Hash State (R20). -/
  h : Quad
  /-- `W[0..3]`, the working variables (R22). -/
  w : Quad
  /-- `M[0..15]`, the block words (R23). -/
  m : Vector Word 16
  /-- `DIG[0..15]`, the digest registers (R26). -/
  dig : Vector Byte 16
  /-- `PH`, the phase (R27). -/
  ph : Phase
  /-- `BLK`, the block index (R27). -/
  blk : BitVec 58
  /-- `RND`, the round index (R27). -/
  rnd : Round
  /-- `HCNT`, the index of the next source byte of a render (R27). -/
  hcnt : DWord
  /-- `RSRC`, the source of the render (R27). -/
  rsrc : Source
  /-- `BUSY` (R28). -/
  busy : Bool
  /-- `DONE` (R28). -/
  done : Bool
  /-- `HEXV` (R28). -/
  hexv : Bool
  /-- `ERR` (R28). -/
  err : Bool
  /-- `ECODE`, the cause of the first refusal since reset (R31). -/
  ecode : Cause
  /-- `LEN`, the message length in bytes (R31, R32). -/
  len : DWord
  /-- `HLEN`, the number of characters of the last accepted render (R31). -/
  hlen : DWord
  /-- `CAP`, the parameter `MSG_CAP`, hardwired: no step changes it (R31, R36, log 2). -/
  cap : BitVec 61
  /-- `MSG`, the message memory (R33). -/
  msg : Mem
  /-- `HEXO`, the hex output memory (R34). -/
  hexo : Mem
  /-- The model's: how many free values have been drawn (log 5). -/
  draws : Nat
  /-- The model's: the value the last host read returned (R81, log 6). -/
  rdata : DWord
  /-- The model's: the value the last evaluated mix formula delivered (log 7). -/
  fOut : Word
  /-- The model's: the value the last evaluated word-index formula delivered (log 7). -/
  gOut : BitVec 4
  /-- The model's: the turns still to come, which say who moves next (log 1). -/
  inbox : List Event
  deriving DecidableEq, Repr

/-- Why the machine stops. -/
inductive Fault where
  /-- Raised by `LOADBLK` and by `RSTEP` with `RSRC = 1` when they need a message byte that nothing has written since
  reset: the spec's model fault `UnwrittenRead` (spec/60_exceptions.md R274). Safe (log 4). -/
  | unwrittenRead
  /-- Raised by `LOADBLK` outside its precondition (R135): no block `BLK` of the padded view exists. No run reaches it
  (R30). Safe (log 9). -/
  | padRange
  /-- Raised by `RSTEP` with `RSRC = 0` and `HCNT` above 15: no such digest register exists (spec/20_memory.md R53). No run
  reaches it. Safe (log 9). -/
  | digRange
  /-- Raised by `RSTEP` when the cells it writes lie outside `HEXO` (spec/20_memory.md R54). No run reaches it. Safe
  (log 9). -/
  | hexoRange
  deriving DecidableEq, Repr

/-- Why an operation has no meaning in the model. Not the refusals of the block (spec/60_exceptions.md R262), which are
next states. -/
inductive Refusal where
  /-- An operation the model does not give a meaning, by its mnemonic; raised by no arm of `exec`. Safe. -/
  | notModelled (mnemonic : String)
  deriving DecidableEq, Repr

/-- The block right after `RESET` (R40, spec/70_reset_and_hazards.md R290) with message capacity `cap`, where `n` free
values had been drawn before: the cells that are `novalue` hold the next free values, and the memories list nothing.
The model's own fields begin empty (log 1, 3, 5, 6, 7). -/
def State.afterReset (cap : BitVec 61) (n : Nat) : State where
  h := ⟨Config.draw32 n, Config.draw32 (n + 1), Config.draw32 (n + 2), Config.draw32 (n + 3)⟩
  w := ⟨Config.draw32 (n + 4), Config.draw32 (n + 5), Config.draw32 (n + 6), Config.draw32 (n + 7)⟩
  m := Vector.ofFn fun t : Fin 16 => Config.draw32 (n + 8 + t.val)
  dig := Vector.ofFn fun t : Fin 16 => Config.draw8 (n + 24 + t.val)
  ph := .idle
  blk := 0
  rnd := 0
  hcnt := 0
  rsrc := .digest
  busy := false
  done := false
  hexv := false
  err := false
  ecode := .none
  len := 0
  hlen := 0
  cap := cap
  msg := []
  hexo := []
  draws := n + 40
  rdata := 0
  fOut := 0
  gOut := 0
  inbox := []

/-- The machine right after reset (R40), for the implementation's `MSG_CAP`. -/
def State.reset : State := State.afterReset Config.msgCap 0

end Sys2Proof.Machine
end

