-- ==== Sys2Proof/Machine/Flags.lean ====
section
/-! DEFINITION. The status flags as the host reads them and the codes of the small registers (spec/10_state.md R27, R28,
R31; spec/30_encoding.md R89). The block has no arithmetic flags (R29). -/

namespace Sys2Proof.Machine

/-- The code of a phase in `PH` (R27). -/
def phaseCode : Phase → BitVec 3
  | .idle => 0
  | .load => 1
  | .copy => 2
  | .round => 3
  | .addback => 4
  | .serial => 5
  | .render => 6

/-- The phase of a code; 7 is none (R27, R93 (c)). -/
def phaseOfCode (c : BitVec 3) : Option Phase :=
  match c.toNat with
  | 0 => some .idle
  | 1 => some .load
  | 2 => some .copy
  | 3 => some .round
  | 4 => some .addback
  | 5 => some .serial
  | 6 => some .render
  | _ => none

/-- The code of a cause, `ECODE[3:0]` (spec/60_exceptions.md R261); bits 7:4 are 0 (R89). -/
def causeCode : Cause → Byte
  | .none => 0
  | .lenOverflow => 1
  | .msgRange => 2
  | .busyAccess => 3
  | .illegalCmd => 4
  | .srcNotValid => 5
  | .badWrite => 6

/-- A flag as a bit of weight `k` of the status byte. -/
def flagBit (k : Nat) (f : Bool) : Byte := if f then 1 <<< k else 0

/-- `STATUS`, a view of the four flags: bit 0 `BUSY`, bit 1 `DONE`, bit 2 `HEXV`, bit 3 `ERR`, bits 7:4 zero (R31, R89). -/
def statusByte (s : State) : Byte :=
  flagBit 0 s.busy ||| flagBit 1 s.done ||| flagBit 2 s.hexv ||| flagBit 3 s.err

end Sys2Proof.Machine
end

