-- ==== Sys2Proof/Machine/Ops.lean ====
section
/-! DEFINITION. The shared operations over the memories and the host port: reading and writing a byte memory
(spec/20_memory.md R67), the one refusal mechanism (spec/60_exceptions.md R262), the write gate (spec/45_host_port.md
R238) and the value a host read returns (spec/30_encoding.md R81). -/

namespace Sys2Proof.Machine

/-- The outcome of a step of this machine. -/
abbrev Result := Host.Outcome State Fault Refusal

/-- The byte a memory holds at an address; `none` if nothing has written it (R41). -/
def memRead : Mem → Nat → Option Byte
  | [], _ => none
  | (b, v) :: rest, a => if a = b then some v else memRead rest a

/-- The memory with one byte written; the cells stay listed by strictly rising address. -/
def memWrite : Mem → Nat → Byte → Mem
  | [], a, v => [(a, v)]
  | (b, u) :: rest, a, v =>
    if a < b then (a, v) :: (b, u) :: rest
    else if a = b then (a, v) :: rest
    else (b, u) :: memWrite rest a v

/-- The canonical form: addresses strictly rising. No byte equals what an unlisted cell reads as, since that is no value. -/
abbrev memWf (m : Mem) : Prop := m.Pairwise fun x y => x.1 < y.1

/-- `raise Refusal(cause)` (R262), the whole trap entry of the block: `ERR` and `ECODE`, nothing else. -/
def raiseRefusal (c : Cause) (s : State) : State :=
  { s with err := true, ecode := c }

/-- The write gate (R238), before anything specific to the target of a host write: dropped while `ERR = 1`, refused with
`BUSY_ACCESS` while `BUSY = 1`, otherwise what the target's own rule gives. -/
def writeGate (s accepted : State) : State :=
  if s.err then s
  else if s.busy then raiseRefusal .busyAccess s
  else accepted

/-- A host read returns a value (R81); no state of the block changes (R66). -/
def returnValue (v : DWord) (s : State) : State :=
  { s with rdata := v }

/-- A host read returns `draw(u8)`: a fresh free byte (R9, spec/93_implementation_defined.md U4, log 5). -/
def returnDraw (s : State) : State :=
  { s with rdata := (Config.draw8 s.draws).zeroExtend 64, draws := s.draws + 1 }

/-- A host read of a byte: its value if it has one that is valid now, otherwise a free byte. -/
def returnByte (b : Option Byte) (s : State) : State :=
  match b with
  | some v => returnValue (v.zeroExtend 64) s
  | none => returnDraw s

end Sys2Proof.Machine
end

