-- ==== Sys2Proof/Machine/Operands.lean ====
section
/-! DEFINITION. How each operation gets its operands (spec/30_encoding.md R90): the sequencer word, the round index, the
bytes of the message and of the digest, words from bytes and bytes from words. -/

namespace Sys2Proof.Machine

/-- The sequencer word `{PH, RND}` (R83). -/
def sqWord (s : State) : BitVec 9 :=
  (phaseCode s.ph ++ s.rnd).cast (by decide)

/-- The round index `i = 16*q + j` (R84). -/
def roundIndex (q : BitVec 2) (j : BitVec 4) : Round :=
  (q ++ j).cast (by decide)

/-- The byte of the message memory at an address, `none` if no such cell exists or nothing has written it
(spec/20_memory.md R50, spec/10_state.md R41). -/
def msgCell (s : State) (a : Nat) : Option Byte :=
  if a < s.cap.toNat then memRead s.msg a else none

/-- The message byte `MSG[a]`. Where the cell holds no value this is a free byte; every operation of the core that uses
this function faults there instead (spec/60_exceptions.md R274). -/
def msgByte (s : State) (a : Nat) : Byte :=
  (msgCell s a).getD (Config.draw8 s.draws)

/-- The digest byte `DIG[a]`, for `0 <= a <= 15` (spec/20_memory.md R53). -/
def digCell (s : State) (a : Nat) : Option Byte :=
  if h : a < 16 then some s.dig[a] else none

/-- The two cells `HEXO[2n]`, `HEXO[2n+1]` exist: `2n + 1 < HEX_CAP = 2 * max(16, MSG_CAP)` (spec/00_scope.md R8). -/
def hexCellsExist (s : State) (n : Nat) : Bool :=
  decide (n < 16) || decide (n < s.cap.toNat)

/-- `LE32(b0, b1, b2, b3)` (spec/42_compressor.md R153): byte 0 is least significant. -/
def le32 (b0 b1 b2 b3 : Byte) : Word :=
  (b3 ++ b2 ++ b1 ++ b0).cast (by decide)

/-- `MemRead(space, a, 4)` of the space whose bytes are `byte` (spec/20_memory.md R67). -/
def memReadWord (byte : Nat → Byte) (a : Nat) : Word :=
  le32 (byte a) (byte (a + 1)) (byte (a + 2)) (byte (a + 3))

/-- Byte `k` of a word, `w[8k+7:8k]` (spec/20_memory.md R59). -/
def wordByte (w : Word) (k : Nat) : Byte :=
  w.extractLsb' (8 * k) 8

/-- Word number `k` of four: 0 is A, 1 is B, 2 is C, 3 is D. -/
def quadWord (q : Quad) (k : Nat) : Word :=
  match k with
  | 0 => q.a
  | 1 => q.b
  | 2 => q.c
  | _ => q.d

/-- The four words as 16 bytes, each word little-endian, in state order (spec/20_memory.md R59). -/
def quadBytes (q : Quad) : Vector Byte 16 :=
  Vector.ofFn fun n : Fin 16 => wordByte (quadWord q (n.val / 4)) (n.val % 4)

end Sys2Proof.Machine
end

