-- ==== Sys2Proof/Machine/Padder.lean ====
section
/-! DEFINITION. The Padder (spec/41_padder.md): the length functions, the bytes of the padded message, and `LOADBLK`. The
padded message is a function, not state (spec/10_state.md R35). -/

namespace Sys2Proof.Machine

/-- `PLEN` (R130): the smallest multiple of 64 that is at least `l + 9`. -/
def plen (l : Nat) : Nat := 64 * ((l + 8) / 64 + 1)

/-- `NBLK` (R131). -/
def nblk (l : Nat) : Nat := (l + 8) / 64 + 1

/-- `ZFILL` (R132). -/
def zfill (l : Nat) : Nat := plen l - l - 9

/-- `BITLEN` (R134), exact: below `2^64` on its domain `l < 2^61`. -/
def bitlen (l : Nat) : Nat := 8 * l

/-- Byte `k` of the length field, least significant first (R133, spec/20_memory.md R58). -/
def lengthByte (l k : Nat) : Byte := BitVec.ofNat 8 (bitlen l / 2 ^ (8 * k))

/-- `PADBYTE` (R133), for `j < PLEN(l)`: message, marker, zero fill, length field. -/
def padByte (l : Nat) (msg : Nat → Byte) (j : Nat) : Byte :=
  if j < l then msg j
  else if j = l then 0x80
  else if j < plen l - 8 then 0x00
  else lengthByte l (j - (plen l - 8))

/-- The sixteen words of block `k` of the padded message (R135, spec/30_encoding.md R85). -/
def blockWords (l : Nat) (msg : Nat → Byte) (k : Nat) : Vector Word 16 :=
  Vector.ofFn fun t : Fin 16 => memReadWord (padByte l msg) (64 * k + 4 * t.val)

/-- The block number `BLK` exists in the padded view of the present length (R135's precondition and the domain
`LEN < 2^61` of the Padder's functions). -/
def blockExists (s : State) : Bool :=
  decide (s.len.toNat < 2 ^ 61) && decide (s.blk.toNat < nblk s.len.toNat)

/-- Every message byte among the 64 bytes of block `BLK` has been written; bytes at and beyond `LEN` are not read (R135). -/
def blockWritten (s : State) : Bool :=
  (List.range 64).all fun k =>
    decide (s.len.toNat ≤ 64 * s.blk.toNat + k) || (msgCell s (64 * s.blk.toNat + k)).isSome

/-- `LOADBLK` (R135). -/
def execLoadblk (s : State) : Result :=
  if blockExists s then
    if blockWritten s then
      .next { s with m := blockWords s.len.toNat (msgByte s) s.blk.toNat, ph := .copy }
    else .fault .unwrittenRead
  else .fault .padRange

end Sys2Proof.Machine
end

