-- ==== Sys2Proof/Machine/Primitives.lean ====
section
/-! DEFINITION. Rotation and bitwise primitives (spec/40_primitives.md), and the meanings of the eight rows of format
`QS`. A primitive reads no state and writes none; evaluated as a row of the table it takes the operands the round that
would use it takes (`WB`, `WC`, `WD`, or `RND`) and delivers its value in a field of the model's own (log 7). -/

namespace Sys2Proof.Machine

/-- `ADD32` (R110): addition modulo 2^32. -/
def add32 (x y : Word) : Word := x + y

/-- `NOT32` (R119): the complement within 32 bits. -/
def not32 (x : Word) : Word := ~~~x

/-- `ROTL` (R111), as the document computes it, for `1 <= n <= 31`; outside it no rule gives a value and no step uses one
(log 11). -/
def rotl (x : Word) (n : Nat) : Word := (x <<< n) ||| (x >>> (32 - n))

/-- `MIX.F` (R112). -/
def mixF (b c d : Word) : Word := (b &&& c) ||| (not32 b &&& d)

/-- `MIX.G` (R113). -/
def mixG (b c d : Word) : Word := (b &&& d) ||| (c &&& not32 d)

/-- `MIX.H` (R114). -/
def mixH (b c d : Word) : Word := b ^^^ c ^^^ d

/-- `MIX.I` (R115). -/
def mixI (b c d : Word) : Word := c ^^^ (b ||| not32 d)

/-- `MIX` (R116): the dispatch by quartile. -/
def mix (q : BitVec 2) (b c d : Word) : Word :=
  match q.toNat with
  | 0 => mixF b c d
  | 1 => mixG b c d
  | 2 => mixH b c d
  | _ => mixI b c d

/-- `WIDX.0` (R117): `i mod 16`. -/
def widx0 (i : Round) : BitVec 4 := BitVec.ofNat 4 (i.toNat % 16)

/-- `WIDX.1` (R117): `(5i + 1) mod 16`. -/
def widx1 (i : Round) : BitVec 4 := BitVec.ofNat 4 ((5 * i.toNat + 1) % 16)

/-- `WIDX.2` (R117): `(3i + 5) mod 16`. -/
def widx2 (i : Round) : BitVec 4 := BitVec.ofNat 4 ((3 * i.toNat + 5) % 16)

/-- `WIDX.3` (R117): `(7i) mod 16`. -/
def widx3 (i : Round) : BitVec 4 := BitVec.ofNat 4 ((7 * i.toNat) % 16)

/-- `WIDX` (R117): the formula is selected by the quartile of `i`. -/
def widx (i : Round) : BitVec 4 :=
  match i.toNat / 16 with
  | 0 => widx0 i
  | 1 => widx1 i
  | 2 => widx2 i
  | _ => widx3 i

/-- A mix formula delivers its value (log 7). -/
def deliverMix (f : Word → Word → Word → Word) (s : State) : State :=
  { s with fOut := f s.w.b s.w.c s.w.d }

/-- A word-index formula delivers its value (log 7). -/
def deliverWidx (g : Round → BitVec 4) (s : State) : State :=
  { s with gOut := g s.rnd }

/-- `MIX.F` (R112). -/
def execMixF (s : State) : Result := .next (deliverMix mixF s)

/-- `MIX.G` (R113). -/
def execMixG (s : State) : Result := .next (deliverMix mixG s)

/-- `MIX.H` (R114). -/
def execMixH (s : State) : Result := .next (deliverMix mixH s)

/-- `MIX.I` (R115). -/
def execMixI (s : State) : Result := .next (deliverMix mixI s)

/-- `WIDX.0` (R117). -/
def execWidx0 (s : State) : Result := .next (deliverWidx widx0 s)

/-- `WIDX.1` (R117). -/
def execWidx1 (s : State) : Result := .next (deliverWidx widx1 s)

/-- `WIDX.2` (R117). -/
def execWidx2 (s : State) : Result := .next (deliverWidx widx2 s)

/-- `WIDX.3` (R117). -/
def execWidx3 (s : State) : Result := .next (deliverWidx widx3 s)

end Sys2Proof.Machine
end

