-- ==== Sys2Proof/Machine/Compressor.lean ====
section
/-! DEFINITION. The Compressor (spec/42_compressor.md): `COPYIN`, the four kinds of round, `ADDBACK`. -/

namespace Sys2Proof.Machine

/-- The moves of a round (R160): with the mix result `f` and the word index `g`, the new
`(WA, WB, WC, WD)` is the old `(WD, temp, WB, WC)`. -/
def roundMoves (m : Vector Word 16) (f : Word) (g : BitVec 4) (i : Round) (w : Quad) : Quad :=
  let sum := add32 (add32 (add32 f w.a) (m[g.toNat]'g.isLt)) (kRom i)
  let temp := add32 w.b (rotl sum (sRom i))
  ⟨w.d, temp, w.b, w.c⟩

/-- The round equation (R160), for any round index. -/
def roundEquation (m : Vector Word 16) (i : Round) (w : Quad) : Quad :=
  roundMoves m (mix (BitVec.ofNat 2 (i.toNat / 16)) w.b w.c w.d) (widx i) i w

/-- The advance of the round index (R161). -/
def advanceRound (i : Round) (s : State) : State :=
  if i = 63 then { s with ph := .addback, rnd := 0 } else { s with rnd := i + 1 }

/-- A round with its mix formula and its word-index formula (R160, R161). -/
def runRound (f : Word → Word → Word → Word) (g : Round → BitVec 4) (i : Round) (s : State) : State :=
  advanceRound i { s with w := roundMoves s.m (f s.w.b s.w.c s.w.d) (g i) i s.w }

/-- Word by word addition modulo 2^32, with no permutation (R159). -/
def quadAdd (x y : Quad) : Quad :=
  ⟨add32 x.a y.a, add32 x.b y.b, add32 x.c y.c, add32 x.d y.d⟩

/-- `COPYIN` (R154). -/
def execCopyin (s : State) : Result :=
  .next { s with w := s.h, rnd := 0, ph := .round }

/-- `ROUND.FF` (R155). The round index is the operand `{0, j}` of the sequencer word, which is `RND` (log 10). -/
def execRoundFF (j : BitVec 4) (s : State) : Result :=
  .next (runRound mixF widx0 (roundIndex 0 j) s)

/-- `ROUND.GG` (R156). -/
def execRoundGG (j : BitVec 4) (s : State) : Result :=
  .next (runRound mixG widx1 (roundIndex 1 j) s)

/-- `ROUND.HH` (R157). -/
def execRoundHH (j : BitVec 4) (s : State) : Result :=
  .next (runRound mixH widx2 (roundIndex 2 j) s)

/-- `ROUND.II` (R158). -/
def execRoundII (j : BitVec 4) (s : State) : Result :=
  .next (runRound mixI widx3 (roundIndex 3 j) s)

/-- `ADDBACK` (R159). -/
def execAddback (s : State) : Result :=
  .next { s with
    h := quadAdd s.h s.w
    blk := s.blk + 1
    ph := if s.blk.toNat + 1 = nblk s.len.toNat then .serial else .load }

end Sys2Proof.Machine
end

