-- ==== Sys2Proof/Machine/DigestEngine.lean ====
section
/-! DEFINITION. The Digest Engine (spec/43_digest_engine.md): the initial constants, `START`, `SERIAL`. -/

namespace Sys2Proof.Machine

/-- `IV` (R181). -/
def iv : Quad := ⟨0x67452301, 0xefcdab89, 0x98badcfe, 0x10325476⟩

/-- What an accepted `START` writes (R182). -/
def beginDigest (s : State) : State :=
  { s with h := iv, blk := 0, rnd := 0, done := false, hexv := false, busy := true, ph := .load }

/-- `START` (R182), the checks in their order of priority (spec/60_exceptions.md R264). -/
def execStart (s : State) : Result :=
  .next (writeGate s
    (if 2 ^ 61 ≤ s.len.toNat then raiseRefusal .lenOverflow s
     else if s.cap.toNat < s.len.toNat then raiseRefusal .msgRange s
     else beginDigest s))

/-- `SERIAL` (R186). -/
def execSerial (s : State) : Result :=
  .next { s with dig := quadBytes s.h, done := true, busy := false, ph := .idle }

end Sys2Proof.Machine
end

