-- ==== Sys2Proof/Machine/HexRenderer.lean ====
section
/-! DEFINITION. The Hex Renderer (spec/44_hex_renderer.md): the character functions, `RENDER.DIG`, `RENDER.MSG`, `RSTEP`. -/

namespace Sys2Proof.Machine

/-- `NIBCHR` (R210): the ASCII code of the lowercase hexadecimal digit. -/
def nibChr (n : BitVec 4) : Byte :=
  if n.toNat ≤ 9 then BitVec.ofNat 8 (0x30 + n.toNat) else BitVec.ofNat 8 (0x57 + n.toNat)

/-- The first character of `HEXBYTE` (R211): the digit of the high four bits. -/
def hexHigh (v : Byte) : Byte := nibChr (v.extractLsb' 4 4)

/-- The second character of `HEXBYTE` (R211): the digit of the low four bits. -/
def hexLow (v : Byte) : Byte := nibChr (v.extractLsb' 0 4)

/-- What an accepted `RENDER.DIG` writes (R213). -/
def beginRenderDig (s : State) : State :=
  { s with rsrc := .digest, hcnt := 0, hlen := 32, hexv := false, busy := true, ph := .render }

/-- `RENDER.DIG` (R213). -/
def execRenderDig (s : State) : Result :=
  .next (writeGate s (if s.done then beginRenderDig s else raiseRefusal .srcNotValid s))

/-- What an accepted `RENDER.MSG` writes (R214): the empty text is complete at once. -/
def beginRenderMsg (s : State) : State :=
  if s.len = 0 then { s with rsrc := .message, hcnt := 0, hlen := 2 * s.len, hexv := true }
  else { s with rsrc := .message, hcnt := 0, hlen := 2 * s.len, hexv := false, busy := true, ph := .render }

/-- `RENDER.MSG` (R214). -/
def execRenderMsg (s : State) : Result :=
  .next (writeGate s
    (if s.cap.toNat < s.len.toNat then raiseRefusal .msgRange s else beginRenderMsg s))

/-- The source byte of a render step (R215), or why there is none (spec/60_exceptions.md R274; log 9). -/
def rstepSource (s : State) : Except Fault Byte :=
  match s.rsrc with
  | .digest =>
    match digCell s s.hcnt.toNat with
    | some v => .ok v
    | none => .error .digRange
  | .message =>
    match msgCell s s.hcnt.toNat with
    | some v => .ok v
    | none => .error .unwrittenRead

/-- What a render step writes for its source byte (R215). -/
def renderByte (v : Byte) (s : State) : State :=
  let n := s.hcnt.toNat
  let s' := { s with
    hexo := memWrite (memWrite s.hexo (2 * n) (hexHigh v)) (2 * n + 1) (hexLow v)
    hcnt := s.hcnt + 1 }
  if 2 * (n + 1) = s.hlen.toNat then { s' with hexv := true, busy := false, ph := .idle } else s'

/-- `RSTEP` (R215). -/
def execRstep (s : State) : Result :=
  match rstepSource s with
  | .error f => .fault f
  | .ok v => if hexCellsExist s s.hcnt.toNat then .next (renderByte v s) else .fault .hexoRange

end Sys2Proof.Machine
end

