-- ==== Sys2Proof/Machine/HostPort.lean ====
section
/-! DEFINITION. The host port (spec/45_host_port.md): the four reads and the writes that are no command. -/

namespace Sys2Proof.Machine

/-- The value of a register of the `REG` space, zero-extended (R231); numbers above 5 and `CMD` read 0. -/
def regValue (s : State) (addr : DWord) : DWord :=
  match addr.toNat with
  | 0 => 0
  | 1 => (statusByte s).zeroExtend 64
  | 2 => s.len
  | 3 => (causeCode s.ecode).zeroExtend 64
  | 4 => s.hlen
  | 5 => s.cap.zeroExtend 64
  | _ => 0

/-- The digest byte a host read gives a value for: valid while `DONE = 1` (R233). -/
def validDig (s : State) (addr : DWord) : Option Byte :=
  if s.done then digCell s addr.toNat else none

/-- The character a host read gives a value for: valid while `HEXV = 1`, below `HLEN` (R234). -/
def validHexo (s : State) (addr : DWord) : Option Byte :=
  if s.hexv && decide (addr.toNat < s.hlen.toNat) then memRead s.hexo addr.toNat else none

/-- `HRD.REG` (R231). -/
def execHrdReg (addr : DWord) (s : State) : Result := .next (returnValue (regValue s addr) s)

/-- `HRD.MSG` (R232). -/
def execHrdMsg (addr : DWord) (s : State) : Result := .next (returnByte (msgCell s addr.toNat) s)

/-- `HRD.DIG` (R233). -/
def execHrdDig (addr : DWord) (s : State) : Result := .next (returnByte (validDig s addr) s)

/-- `HRD.HEXO` (R234). -/
def execHrdHexo (addr : DWord) (s : State) : Result := .next (returnByte (validHexo s addr) s)

/-- `HWR.REG` with `addr = 0` and an illegal command word (R235, spec/30_encoding.md R93). -/
def execHwrRegCmdIllegal (_cw : Byte) (s : State) : Result :=
  .next (writeGate s (raiseRefusal .illegalCmd s))

/-- `HWR.REG` with `addr = 2` (R235): any `u64` may be written to `LEN`. -/
def execHwrRegLen (data : DWord) (s : State) : Result :=
  .next (writeGate s { s with len := data })

/-- `HWR.REG` with any other register number (R235). -/
def execHwrReg (_addr _data : DWord) (s : State) : Result :=
  .next (writeGate s (raiseRefusal .badWrite s))

/-- `HWR.MSG` (R236). -/
def execHwrMsg (addr : DWord) (value : Byte) (s : State) : Result :=
  .next (writeGate s
    (if addr.toNat < s.cap.toNat then { s with msg := memWrite s.msg addr.toNat value }
     else raiseRefusal .badWrite s))

/-- `HWR.DIG` (R237): the digest is produced by the core only. -/
def execHwrDig (_addr _data : DWord) (s : State) : Result :=
  .next (writeGate s (raiseRefusal .badWrite s))

/-- `HWR.HEXO` (R237): the hex text is produced by the core only. -/
def execHwrHexo (_addr _data : DWord) (s : State) : Result :=
  .next (writeGate s (raiseRefusal .badWrite s))

end Sys2Proof.Machine
end

