-- ==== Sys2Proof/Machine/System.lean ====
section
/-! DEFINITION. The reset input (spec/70_reset_and_hazards.md R290, R291), the one return from a refusal
(spec/60_exceptions.md R265). -/

namespace Sys2Proof.Machine

/-- The block after `RESET` in state `s` (R290, spec/10_state.md R40); the model's own fields are not the block's and
keep their values, and the counter of free values goes on (log 3). -/
def resetBlock (s : State) : State :=
  { State.afterReset s.cap s.draws with
    rdata := s.rdata, fOut := s.fOut, gOut := s.gOut, inbox := s.inbox }

/-- `RESET` (R290): in any state, never refused, not gated. -/
def execReset (s : State) : Result := .next (resetBlock s)

end Sys2Proof.Machine
end

