-- ==== Sys2Proof/Machine/Dispatch.lean ====
section
/-! DEFINITION. One arm per constructor of `Instr`, each a direct call of its meaning. -/

namespace Sys2Proof.Machine

def exec (i : Instr) (s : State) : Host.Outcome State Fault Refusal :=
  match i with
  | .start => Sys2Proof.Machine.execStart s
  | .renderDig => Sys2Proof.Machine.execRenderDig s
  | .renderMsg => Sys2Proof.Machine.execRenderMsg s
  | .hwrRegCmdIllegal cw => Sys2Proof.Machine.execHwrRegCmdIllegal cw s
  | .hwrRegLen data => Sys2Proof.Machine.execHwrRegLen data s
  | .hwrReg addr data => Sys2Proof.Machine.execHwrReg addr data s
  | .hwrMsg addr value => Sys2Proof.Machine.execHwrMsg addr value s
  | .hwrDig addr data => Sys2Proof.Machine.execHwrDig addr data s
  | .hwrHexo addr data => Sys2Proof.Machine.execHwrHexo addr data s
  | .hrdReg addr => Sys2Proof.Machine.execHrdReg addr s
  | .hrdMsg addr => Sys2Proof.Machine.execHrdMsg addr s
  | .hrdDig addr => Sys2Proof.Machine.execHrdDig addr s
  | .hrdHexo addr => Sys2Proof.Machine.execHrdHexo addr s
  | .loadblk => Sys2Proof.Machine.execLoadblk s
  | .copyin => Sys2Proof.Machine.execCopyin s
  | .roundFF j => Sys2Proof.Machine.execRoundFF j s
  | .roundGG j => Sys2Proof.Machine.execRoundGG j s
  | .roundHH j => Sys2Proof.Machine.execRoundHH j s
  | .roundII j => Sys2Proof.Machine.execRoundII j s
  | .addback => Sys2Proof.Machine.execAddback s
  | .serial => Sys2Proof.Machine.execSerial s
  | .rstep => Sys2Proof.Machine.execRstep s
  | .mixF => Sys2Proof.Machine.execMixF s
  | .mixG => Sys2Proof.Machine.execMixG s
  | .mixH => Sys2Proof.Machine.execMixH s
  | .mixI => Sys2Proof.Machine.execMixI s
  | .widx0 => Sys2Proof.Machine.execWidx0 s
  | .widx1 => Sys2Proof.Machine.execWidx1 s
  | .widx2 => Sys2Proof.Machine.execWidx2 s
  | .widx3 => Sys2Proof.Machine.execWidx3 s
  | .reset => Sys2Proof.Machine.execReset s

end Sys2Proof.Machine
end

