-- ==== Sys2Proof/Machine/Turn.lean ====
section
/-! DEFINITION. One turn of each agent (spec/20_memory.md R69, spec/43_digest_engine.md R183), and how a word is placed
where the next step takes it. -/

namespace Sys2Proof.Machine

/-- A turn of the core: the micro-operation its sequencer word selects; where the word selects none (`PH = IDLE`) the core
has no step to take and the state stays (R83, R183). -/
def coreTurn (s : State) : Result :=
  match decodeSQ (sqWord s) with
  | .ok i => exec i s
  | .error _ => .next s

/-- A turn of the inbox. A reset input that is not asserted does nothing (spec/30_encoding.md R80). -/
def takeEvent (e : Event) (s : State) : Result :=
  match e with
  | .core => coreTurn s
  | .ht r => exec (decodeHT r) s
  | .mix q => exec (decodeMix q) s
  | .widx q => exec (decodeWidx q) s
  | .sig rst =>
    match decodeSIG rst with
    | .ok i => exec i s
    | .error _ => .next s

/-- The next turn: the head of the inbox; with an empty inbox the host does nothing more and the core runs on
(spec/70_reset_and_hazards.md R300, log 1). -/
def nextTurn (s : State) : Result :=
  match s.inbox with
  | [] => coreTurn s
  | e :: rest => takeEvent e { s with inbox := rest }

/-- The sequencer word set to a word of format `SQ`; a word whose phase is no phase leaves the core idle. -/
def placeSQ (s : State) (w : BitVec 9) : State :=
  { s with
    ph := (phaseOfCode (w.extractLsb' 6 3)).getD .idle
    rnd := w.extractLsb' 0 6
    inbox := .core :: s.inbox }

/-- A word of a format placed where the next turn takes it: a word of the host at the head of the inbox, a sequencer word
in `PH` and `RND` with a turn of the core at the head of the inbox (log 1, log 8). -/
def placeWord (s : State) (f : Format) (w : Nat) : State :=
  match f with
  | .ht => { s with inbox := .ht (BitVec.ofNat 131 w) :: s.inbox }
  | .cw => { s with inbox := .ht (htRecord 4 0 (BitVec.ofNat 64 w)) :: s.inbox }
  | .sq => placeSQ s (BitVec.ofNat 9 w)
  | .qsMix => { s with inbox := .mix (BitVec.ofNat 2 w) :: s.inbox }
  | .qsWidx => { s with inbox := .widx (BitVec.ofNat 2 w) :: s.inbox }
  | .sig => { s with inbox := .sig (BitVec.ofNat 1 w) :: s.inbox }

end Sys2Proof.Machine
end

