-- ==== Sys2Proof/Machine/Step.lean ====
section
/-! DEFINITION. One step of the machine. -/

namespace Sys2Proof.Machine

/-- One atomic step of either agent (spec/20_memory.md R65, R69). -/
def step (s : State) : Host.Outcome State Fault Refusal := nextTurn s

/-- `s` with a word of the opcode table placed so that the very next step runs it (log 1, log 8). -/
def State.withFetchWord (s : State) (nbits w : Nat) : State :=
  placeWord s (tableFormat nbits w) w

end Sys2Proof.Machine
end

