-- ==== Sys2Proof/Machine/Functions.lean ====
section
/-! DEFINITION. What the steps compute, as functions of the data alone: `COMPRESS` (spec/42_compressor.md R162), `DIGEST`
(spec/43_digest_engine.md R188), `HEXSTR` and the decoding of hex text (spec/44_hex_renderer.md R212, R217). No step
calls them; statements compare the steps with them. -/

namespace Sys2Proof.Machine

/-- The working variables after the rounds 0 to `n - 1` (R162). -/
def rounds (m : Vector Word 16) : Nat → Quad → Quad
  | 0, w => w
  | n + 1, w => roundEquation m (BitVec.ofNat 6 n) (rounds m n w)

/-- `COMPRESS(h, m)` (R162). -/
def compress (h : Quad) (m : Vector Word 16) : Quad := quadAdd h (rounds m 64 h)

/-- The Hash State after the first `k` blocks of the padded message (R188). -/
def hashBlocks (l : Nat) (msg : Nat → Byte) : Nat → Quad
  | 0 => iv
  | k + 1 => compress (hashBlocks l msg k) (blockWords l msg k)

/-- `DIGEST(L, msg)` (R188), on its domain `L < 2^61`. -/
def digest (l : Nat) (msg : Nat → Byte) : Vector Byte 16 := quadBytes (hashBlocks l msg (nblk l))

/-- `HEXSTR(n, src)` (R212): two characters for each byte, in input order. -/
def hexStr (src : List Byte) : List Byte :=
  match src with
  | [] => []
  | v :: rest => hexHigh v :: hexLow v :: hexStr rest

/-- `val`, the inverse of `NIBCHR` (R217); `none` for a byte that is no lowercase hexadecimal digit. -/
def hexVal (c : Byte) : Option Nat :=
  if 0x30 ≤ c.toNat ∧ c.toNat ≤ 0x39 then some (c.toNat - 0x30)
  else if 0x61 ≤ c.toNat ∧ c.toNat ≤ 0x66 then some (c.toNat - 0x57)
  else none

/-- The decoding of a hex text (R217): byte `k` is `16 * val(s[2k]) + val(s[2k+1])`. -/
def hexDecode : List Byte → Option (List Byte)
  | [] => some []
  | [_] => none
  | x :: y :: rest =>
    match hexVal x, hexVal y, hexDecode rest with
    | some a, some b, some bs => some (BitVec.ofNat 8 (16 * a + b) :: bs)
    | _, _, _ => none

end Sys2Proof.Machine
end

