-- ==== Sys2Proof/Safety.lean ====
section
/-! DEFINITION. What statements about the block are made of: the groups of operations, the invariant every step keeps
(spec/10_state.md R30 and what follows from the rules), and executions with the host's turns counted apart from the
core's. -/

namespace Sys2Proof.Machine

/-- The host writes: the operations of the write gate (spec/45_host_port.md R238). -/
def isHostWrite : Instr → Bool
  | .start | .renderDig | .renderMsg | .hwrRegCmdIllegal _ | .hwrRegLen _ | .hwrReg _ _ | .hwrMsg _ _
  | .hwrDig _ _ | .hwrHexo _ _ => true
  | .hrdReg _ | .hrdMsg _ | .hrdDig _ | .hrdHexo _ | .loadblk | .copyin | .roundFF _ | .roundGG _ | .roundHH _
  | .roundII _ | .addback | .serial | .rstep | .mixF | .mixG | .mixH | .mixI | .widx0 | .widx1 | .widx2 | .widx3
  | .reset => false

/-- The host reads (spec/45_host_port.md R231 to R234). -/
def isHostRead : Instr → Bool
  | .hrdReg _ | .hrdMsg _ | .hrdDig _ | .hrdHexo _ => true
  | .start | .renderDig | .renderMsg | .hwrRegCmdIllegal _ | .hwrRegLen _ | .hwrReg _ _ | .hwrMsg _ _
  | .hwrDig _ _ | .hwrHexo _ _ | .loadblk | .copyin | .roundFF _ | .roundGG _ | .roundHH _ | .roundII _ | .addback
  | .serial | .rstep | .mixF | .mixG | .mixH | .mixI | .widx0 | .widx1 | .widx2 | .widx3 | .reset => false

/-- A phase of a digest computation before its last step: a block is being processed. -/
def inBlock (p : Phase) : Prop := p = .load ∨ p = .copy ∨ p = .round ∨ p = .addback

/-- The number of character cells, `HEX_CAP` (spec/00_scope.md R8). -/
def hexCap (s : State) : Nat := 2 * max 16 s.cap.toNat

/-- The invariant of the block. Its first six fields are the six sentences of spec/10_state.md R30 (the fourth holds by
the type of `PH`); the others follow from the rules named. -/
structure BlockInv (s : State) : Prop where
  /-- `BUSY = 1` exactly when `PH != IDLE` (R30). -/
  busy_iff : s.busy = true ↔ s.ph ≠ .idle
  /-- `DONE = 1` implies `PH` is `IDLE` or `RENDER` (R30). -/
  done_phase : s.done = true → s.ph = .idle ∨ s.ph = .render
  /-- `HEXV = 1` implies `PH = IDLE` (R30). -/
  hexv_idle : s.hexv = true → s.ph = .idle
  /-- In a block, `BLK < NBLK(LEN)` (R30). -/
  block_lt : inBlock s.ph → s.blk.toNat < nblk s.len.toNat
  /-- In a render, `2 * HCNT < HLEN` (R30). -/
  render_lt : s.ph = .render → 2 * s.hcnt.toNat < s.hlen.toNat
  /-- `RND` is 0 whenever `PH != ROUND` (spec/30_encoding.md R83). -/
  rnd_zero : s.ph ≠ .round → s.rnd = 0
  /-- A computation in progress has a legal length (spec/43_digest_engine.md R182, spec/10_state.md R32). -/
  len_legal : inBlock s.ph ∨ s.ph = .serial → s.len.toNat < 2 ^ 61 ∧ s.len.toNat ≤ s.cap.toNat
  /-- A render of the digest renders 16 valid bytes (spec/44_hex_renderer.md R213). -/
  render_digest : s.ph = .render → s.rsrc = .digest → s.done = true ∧ s.hlen = 32
  /-- A render of the message renders `LEN` bytes of the message memory (spec/44_hex_renderer.md R214). -/
  render_message : s.ph = .render → s.rsrc = .message →
    s.len.toNat ≤ s.cap.toNat ∧ s.hlen.toNat = 2 * s.len.toNat
  /-- `ERR = 0` exactly when `ECODE` is 0 (spec/60_exceptions.md R262, R263). -/
  err_iff : s.err = true ↔ s.ecode ≠ .none
  /-- The message memory is in canonical form. -/
  msg_wf : memWf s.msg
  /-- The hex memory is in canonical form. -/
  hexo_wf : memWf s.hexo
  /-- Only cells that exist hold message bytes (spec/20_memory.md R50). -/
  msg_range : ∀ c ∈ s.msg, c.1 < s.cap.toNat
  /-- Only cells that exist hold characters (spec/20_memory.md R54). -/
  hexo_range : ∀ c ∈ s.hexo, c.1 < hexCap s
  /-- The characters rendered so far have been written (spec/44_hex_renderer.md R215). -/
  render_written : s.ph = .render → ∀ p, p < 2 * s.hcnt.toNat → (memRead s.hexo p).isSome = true
  /-- `HEXV = 1`: every character of the text has been written (spec/10_state.md R28). -/
  hexv_written : s.hexv = true → ∀ p, p < s.hlen.toNat → (memRead s.hexo p).isSome = true

/-- The turn is not an assertion of the reset input. -/
def notReset : Event → Bool
  | .sig rst => rst != 1
  | .ht _ | .mix _ | .widx _ | .core => true

/-- The number of turns of the core in a list of turns. -/
def coreTurns (es : List Event) : Nat := es.countP fun e => e == .core

/-- The state of the block, without the model's own fields: two states that agree on it are the same block. -/
def sameBlock (s t : State) : Prop :=
  t = { s with draws := t.draws, rdata := t.rdata, fOut := t.fOut, gOut := t.gOut, inbox := t.inbox }

/-- Two states that differ at most in registers no later step of the core reads before it writes them: `H` while no digest is
computed, `W` but in `ROUND` and `ADDBACK`, `M` but in `COPY` and `ROUND` (spec/93_implementation_defined.md U5); and in
the model's `fOut`, which nothing reads (log 7). -/
def sameLive (s t : State) : Prop :=
  t = { s with h := t.h, w := t.w, m := t.m, fOut := t.fOut } ∧
  (s.ph ≠ .idle ∧ s.ph ≠ .render → t.h = s.h) ∧
  (s.ph = .round ∨ s.ph = .addback → t.w = s.w) ∧
  (s.ph = .copy ∨ s.ph = .round → t.m = s.m)

/-- Two steps end alike: in related states, or with one reason. -/
def sameEnd (rel : State → State → Prop) : Result → Result → Prop
  | .next s, .next t => rel s t
  | .fault a, .fault b => a = b
  | .refused a, .refused b => a = b
  | _, _ => False

end Sys2Proof.Machine
end

