-- ==== Sys2Proof/Certificates/Slice0/Obligations.lean ====
section
/-! DEFINITION. The statements for the provers, each about the rules of spec/ its docstring names. -/

open Sys2Proof Sys2Proof.Machine

/-! ### Encodings (spec/30_encoding.md) -/

/-- R81 to R84, R91: decoding the encoding of a well-formed operation gives it back, every operand at every value. -/
def Obligations.DecodeInvertsEncode : Prop :=
  ∀ i : Instr, WellFormed i = true → decode (encode i).format (encode i).word = .ok i

/-- R81 ("All eight values are defined; none is reserved"), R91: every host transaction is a well-formed operation, and a
write or a read of the host port. -/
def Obligations.EveryRecordIsAnOperation : Prop :=
  ∀ r : Record, WellFormed (decodeHT r) = true ∧ decode .ht r.toNat = .ok (decodeHT r) ∧
    (isHostWrite (decodeHT r) = true ∨ isHostRead (decodeHT r) = true)

/-- R91 and spec/opcode_table.json: the decoder takes the first row of format `HT` whose `(word AND mask) = match`, the
rows in the table's order. -/
def Obligations.FirstMatchingRowDecodes : Prop :=
  ∀ r : Record,
    let w := r.toNat
    let addr : DWord := BitVec.ofNat 64 (w / 2 ^ 64)
    let data : DWord := BitVec.ofNat 64 w
    decodeHT r =
      if w &&& 0x7ffffffffffffffff00000000000000ff = 0x400000000000000000000000000000001 then .start
      else if w &&& 0x7ffffffffffffffff00000000000000ff = 0x400000000000000000000000000000002 then .renderDig
      else if w &&& 0x7ffffffffffffffff00000000000000ff = 0x40000000000000000000000000000000a then .renderMsg
      else if w &&& 0x7ffffffffffffffff0000000000000000 = 0x400000000000000000000000000000000 then
        .hwrRegCmdIllegal (BitVec.ofNat 8 w)
      else if w &&& 0x7ffffffffffffffff0000000000000000 = 0x400000000000000020000000000000000 then .hwrRegLen data
      else if w &&& 0x700000000000000000000000000000000 = 0x400000000000000000000000000000000 then .hwrReg addr data
      else if w &&& 0x700000000000000000000000000000000 = 0x500000000000000000000000000000000 then
        .hwrMsg addr (BitVec.ofNat 8 w)
      else if w &&& 0x700000000000000000000000000000000 = 0x600000000000000000000000000000000 then .hwrDig addr data
      else if w &&& 0x700000000000000000000000000000000 = 0x700000000000000000000000000000000 then .hwrHexo addr data
      else if w &&& 0x700000000000000000000000000000000 = 0x000000000000000000000000000000000 then .hrdReg addr
      else if w &&& 0x700000000000000000000000000000000 = 0x100000000000000000000000000000000 then .hrdMsg addr
      else if w &&& 0x700000000000000000000000000000000 = 0x200000000000000000000000000000000 then .hrdDig addr
      else .hrdHexo addr

/-- Words written out from the spec's encodings (R82, R83, R84, R96 and the programs of spec/95_test_vectors.md). That a
selector word is read in two formats, one for each of its rows, is the model's choice (log 7). -/
def Obligations.SpecWordsDecode : Prop :=
  decode .ht 0x400000000000000000000000000000001 = .ok .start ∧
  decode .ht 0x40000000000000000000000000000000a = .ok .renderMsg ∧
  decode .ht 0x400000000000000020000000000000003 = .ok (.hwrRegLen 3) ∧
  decode .ht 0x500000000000000010000000000000062 = .ok (.hwrMsg 1 0x62) ∧
  decode .ht 0x000000000000000030000000000000000 = .ok (.hrdReg 3) ∧
  decode .ht 0x2000000000000000f0000000000000000 = .ok (.hrdDig 15) ∧
  decode .ht 0x300000000000000100000000000000000 = .ok (.hrdHexo 16) ∧
  decode .cw 0x09 = .ok (.hwrRegCmdIllegal 0x09) ∧
  decode .sq 0b001000000 = .ok .loadblk ∧
  decode .sq 0b011010011 = .ok (.roundGG 3) ∧
  decode .sq 0b011111111 = .ok (.roundII 15) ∧
  decode .sq 0b111000000 = .error .unreachablePhase ∧
  decode .qsMix 0b10 = .ok .mixH ∧
  decode .qsWidx 0b11 = .ok .widx3 ∧
  decode .sig 1 = .ok .reset

/-- R83: the sequencer word `{PH, RND}` selects the micro-operation of each phase, and in `ROUND` the kind of round by
`RND[5:4]` with round index `RND`. -/
def Obligations.SequencerWordSelects : Prop :=
  ∀ s : State,
    (s.ph = .idle → decodeSQ (sqWord s) = .error .idle) ∧
    (s.ph = .load → decodeSQ (sqWord s) = .ok .loadblk) ∧
    (s.ph = .copy → decodeSQ (sqWord s) = .ok .copyin) ∧
    (s.ph = .round → ∀ j : BitVec 4,
      (s.rnd.toNat = j.toNat → decodeSQ (sqWord s) = .ok (.roundFF j)) ∧
      (s.rnd.toNat = 16 + j.toNat → decodeSQ (sqWord s) = .ok (.roundGG j)) ∧
      (s.rnd.toNat = 32 + j.toNat → decodeSQ (sqWord s) = .ok (.roundHH j)) ∧
      (s.rnd.toNat = 48 + j.toNat → decodeSQ (sqWord s) = .ok (.roundII j))) ∧
    (s.ph = .addback → decodeSQ (sqWord s) = .ok .addback) ∧
    (s.ph = .serial → decodeSQ (sqWord s) = .ok .serial) ∧
    (s.ph = .render → decodeSQ (sqWord s) = .ok .rstep)

/-- R65, R69, R83, R183, and the model's choice of log 1: a step runs the operation of the next turn. A transaction, an
asserted reset input or a selector at the head of the inbox is that operation; at a turn of the core, and at every step
once the inbox is empty, it is the micro-operation the sequencer word selects; where there is none the state stays. -/
def Obligations.StepRunsTheNextTurn : Prop :=
  ∀ (s : State) (rest : List Event),
    (∀ r, s.inbox = .ht r :: rest → step s = exec (decodeHT r) { s with inbox := rest }) ∧
    (s.inbox = .sig 1 :: rest → step s = exec .reset { s with inbox := rest }) ∧
    (s.inbox = .sig 0 :: rest → step s = .next { s with inbox := rest }) ∧
    (∀ q, s.inbox = .mix q :: rest → step s = exec (decodeMix q) { s with inbox := rest }) ∧
    (∀ q, s.inbox = .widx q :: rest → step s = exec (decodeWidx q) { s with inbox := rest }) ∧
    (∀ i, s.inbox = .core :: rest → decodeSQ (sqWord s) = .ok i → step s = exec i { s with inbox := rest }) ∧
    (s.inbox = .core :: rest → s.ph = .idle → step s = .next { s with inbox := rest }) ∧
    (∀ i, s.inbox = [] → decodeSQ (sqWord s) = .ok i → step s = exec i s) ∧
    (s.inbox = [] → s.ph = .idle → step s = .next s)

/-! ### Primitives (spec/40_primitives.md) -/

/-- R112 to R115: the rows `MIX.F`, `MIX.G`, `MIX.H`, `MIX.I` deliver, bit by bit, the functions of the three working
variables the truth tables give, and change nothing of the block. That a row is evaluated on `WB`, `WC`, `WD` and that its
value goes to `fOut` is the model's choice (log 7). -/
def Obligations.MixRowsDeliver : Prop :=
  ∀ s : State, ∃ f g h i : Word,
    exec .mixF s = .next { s with fOut := f } ∧
    exec .mixG s = .next { s with fOut := g } ∧
    exec .mixH s = .next { s with fOut := h } ∧
    exec .mixI s = .next { s with fOut := i } ∧
    ∀ k, k < 32 →
      f.getLsbD k = (if s.w.b.getLsbD k then s.w.c.getLsbD k else s.w.d.getLsbD k) ∧
      g.getLsbD k = (if s.w.d.getLsbD k then s.w.b.getLsbD k else s.w.c.getLsbD k) ∧
      h.getLsbD k = ((s.w.b.getLsbD k ^^ s.w.c.getLsbD k) ^^ s.w.d.getLsbD k) ∧
      i.getLsbD k = (s.w.c.getLsbD k ^^ (s.w.b.getLsbD k || !s.w.d.getLsbD k))

/-- R117: the rows `WIDX.0` to `WIDX.3` deliver the word index their formula gives for the round index, and change nothing
of the block. That the operand is `RND` and that the value goes to `gOut` is the model's choice (log 7). -/
def Obligations.WidxRowsDeliver : Prop :=
  ∀ s : State, ∃ g0 g1 g2 g3 : BitVec 4,
    exec .widx0 s = .next { s with gOut := g0 } ∧ g0.toNat = s.rnd.toNat % 16 ∧
    exec .widx1 s = .next { s with gOut := g1 } ∧ g1.toNat = (5 * s.rnd.toNat + 1) % 16 ∧
    exec .widx2 s = .next { s with gOut := g2 } ∧ g2.toNat = (3 * s.rnd.toNat + 5) % 16 ∧
    exec .widx3 s = .next { s with gOut := g3 } ∧ g3.toNat = (7 * s.rnd.toNat) % 16

/-- R117: each row of the word-index table is a permutation of 0 to 15: in every quartile every block word is used by
exactly one round. -/
def Obligations.WordIndexIsAPermutation : Prop :=
  ∀ (q : BitVec 2) (g : BitVec 4), ∃! j : BitVec 4, widx (roundIndex q j) = g

/-- R111: bit `k` of `x` becomes bit `(k + n) mod 32` of `ROTL(x, n)`, for every `n` of its domain. -/
def Obligations.RotationMovesEveryBit : Prop :=
  ∀ (x : Word) (n k : Nat), 1 ≤ n → n ≤ 31 → k < 32 → (rotl x n).getLsbD ((k + n) % 32) = x.getLsbD k

/-- R110, R119: `ADD32` is addition modulo 2^32 and `NOT32(x)` is `0xFFFFFFFF - x`. -/
def Obligations.WordArithmetic : Prop :=
  ∀ x y : Word, (add32 x y).toNat = (x.toNat + y.toNat) % 2 ^ 32 ∧ (not32 x).toNat = 0xFFFFFFFF - x.toNat

/-- R25, R152: the shift amounts of the four quartiles, all within 1 to 31, depending on `q` and `i mod 4` only. -/
def Obligations.ShiftAmounts : Prop :=
  ∀ i : Round, 1 ≤ sRom i ∧ sRom i ≤ 31 ∧
    (i.toNat < 16 → sRom i = [7, 12, 17, 22].getD (i.toNat % 4) 0) ∧
    (16 ≤ i.toNat → i.toNat < 32 → sRom i = [5, 9, 14, 20].getD (i.toNat % 4) 0) ∧
    (32 ≤ i.toNat → i.toNat < 48 → sRom i = [4, 11, 16, 23].getD (i.toNat % 4) 0) ∧
    (48 ≤ i.toNat → sRom i = [6, 10, 15, 21].getD (i.toNat % 4) 0)

/-- R24, R151: the sixty-four round constants, entry by entry, indexed by the round index. -/
def Obligations.RoundConstantTable : Prop :=
  ∀ i : Round, some (kRom i) = ([
    0xd76aa478, 0xe8c7b756, 0x242070db, 0xc1bdceee, 0xf57c0faf, 0x4787c62a, 0xa8304613, 0xfd469501,
    0x698098d8, 0x8b44f7af, 0xffff5bb1, 0x895cd7be, 0x6b901122, 0xfd987193, 0xa679438e, 0x49b40821,
    0xf61e2562, 0xc040b340, 0x265e5a51, 0xe9b6c7aa, 0xd62f105d, 0x02441453, 0xd8a1e681, 0xe7d3fbc8,
    0x21e1cde6, 0xc33707d6, 0xf4d50d87, 0x455a14ed, 0xa9e3e905, 0xfcefa3f8, 0x676f02d9, 0x8d2a4c8a] ++ [
    0xfffa3942, 0x8771f681, 0x6d9d6122, 0xfde5380c, 0xa4beea44, 0x4bdecfa9, 0xf6bb4b60, 0xbebfbc70,
    0x289b7ec6, 0xeaa127fa, 0xd4ef3085, 0x04881d05, 0xd9d4d039, 0xe6db99e5, 0x1fa27cf8, 0xc4ac5665,
    0xf4292244, 0x432aff97, 0xab9423a7, 0xfc93a039, 0x655b59c3, 0x8f0ccc92, 0xffeff47d, 0x85845dd1,
    0x6fa87e4f, 0xfe2ce6e0, 0xa3014314, 0x4e0811a1, 0xf7537e82, 0xbd3af235, 0x2ad7d2bb, 0xeb86d391] : List Word)[i.toNat]?

/-- R151: the round constants are the values of the document's formula, `K[i] = floor(|sin(i+1)| * 2^32)`. That the argument
of `sin` is in radians is the spec's general knowledge (log 12). -/
def Obligations.RoundConstantsAreTheSines : Prop :=
  ∀ i : Round, ⌊|Real.sin (i.toNat + 1)| * 2 ^ 32⌋ = ((kRom i).toNat : ℤ)

/-! ### The Padder (spec/41_padder.md) -/

/-- R136, for every legal length: the padded length is a multiple of 64, at least `L + 9`, at most `L + 72` and at least 64.
The lower bound is attained at 55. -/
def Obligations.PaddedLengthInvariants : Prop :=
  (∀ l, l < 2 ^ 61 → plen l % 64 = 0 ∧ l + 9 ≤ plen l ∧ plen l ≤ l + 72 ∧ 64 ≤ plen l) ∧ plen 55 = 55 + 9

/-- R130, R131, R132: `PLEN` is the smallest multiple of 64 that is at least `L + 9`, `NBLK` counts its blocks, `ZFILL` is
what is left between the marker and the length field. -/
def Obligations.PaddedLengthIsLeast : Prop :=
  ∀ l, l < 2 ^ 61 →
    (∀ p, p % 64 = 0 → l + 9 ≤ p → plen l ≤ p) ∧ plen l = 64 * nblk l ∧ plen l = l + 9 + zfill l ∧
    zfill l = (119 - l % 64) % 64 ∧ 1 ≤ nblk l ∧ nblk l ≤ 2 ^ 55 + 1

/-- R133: the four cases of a padded byte; they are exclusive, they cover every index below `PLEN`, and only the bytes below
`L` are read. -/
def Obligations.PaddedBytes : Prop :=
  ∀ (l : Nat) (msg : Nat → Byte), l < 2 ^ 61 →
    (∀ j, j < l → padByte l msg j = msg j) ∧
    padByte l msg l = 0x80 ∧
    (∀ j, l < j → j < plen l - 8 → padByte l msg j = 0x00) ∧
    (∀ k, k < 8 → (padByte l msg (plen l - 8 + k)).toNat = (8 * l / 2 ^ (8 * k)) % 256) ∧
    l + 1 ≤ plen l - 8 ∧
    (∀ j, j < plen l → j < l ∨ j = l ∨ (l < j ∧ j < plen l - 8) ∨ ∃ k, k < 8 ∧ j = plen l - 8 + k) ∧
    (∀ msg' : Nat → Byte, (∀ j, j < l → msg' j = msg j) → ∀ j, padByte l msg' j = padByte l msg j)

/-- R58: the length field is little-endian; in block words, `M[14]` of the last block is the low 32 bits of `8*L` and
`M[15]` the high 32 bits. -/
def Obligations.LengthFieldLittleEndian : Prop :=
  ∀ (l : Nat) (msg : Nat → Byte), l < 2 ^ 61 →
    (∀ k, k < 8 → (padByte l msg (plen l - 8 + k)).toNat = (8 * l / 2 ^ (8 * k)) % 256) ∧
    (blockWords l msg (nblk l - 1))[14].toNat = (8 * l) % 2 ^ 32 ∧
    (blockWords l msg (nblk l - 1))[15].toNat = (8 * l) / 2 ^ 32

/-- R137: two different messages never have the same padded message. -/
def Obligations.PaddingIsUnambiguous : Prop :=
  ∀ (l l' : Nat) (msg msg' : Nat → Byte), l < 2 ^ 61 → l' < 2 ^ 61 → plen l = plen l' →
    (∀ j, j < plen l → padByte l msg j = padByte l' msg' j) →
    l = l' ∧ ∀ j, j < l → msg j = msg' j

/-- R135, R57, R85: `LOADBLK` completes on a block that exists and whose message bytes are written. For a message `src` whose
bytes in the block the message memory holds, word `t` is the little-endian value of the bytes `64*BLK + 4t` to
`64*BLK + 4t + 3` of the padded `src`, `PH` becomes `COPY`, nothing else changes. -/
def Obligations.LoadblkLoadsTheBlock : Prop :=
  ∀ (s : State) (src : List Byte), src.length = s.len.toNat → s.len.toNat < 2 ^ 61 →
    s.blk.toNat < nblk s.len.toNat →
    (∀ (j : Nat) (hj : j < src.length), 64 * s.blk.toNat ≤ j → j < 64 * s.blk.toNat + 64 →
      j < s.cap.toNat ∧ memRead s.msg j = some src[j]) →
    ∃ m' : Vector Word 16, exec .loadblk s = .next { s with m := m', ph := .copy } ∧
      ∀ (t : Nat) (ht : t < 16),
        let b := fun k => (padByte src.length (fun j => src.getD j 0) (64 * s.blk.toNat + 4 * t + k)).toNat
        (m'[t]).toNat = b 0 + b 1 * 2 ^ 8 + b 2 * 2 ^ 16 + b 3 * 2 ^ 24

/-- R274, R41: `LOADBLK`, and `RSTEP` with `RSRC = 1`, stop with the model fault `UnwrittenRead` when they need a message
byte that nothing has written, or whose cell does not exist. That they stop, and do not go on with a free byte, is the
model's choice of the two the spec allows (log 4). -/
def Obligations.UnwrittenReadFaults : Prop :=
  ∀ s : State,
    (∀ j, s.len.toNat < 2 ^ 61 → s.blk.toNat < nblk s.len.toNat → 64 * s.blk.toNat ≤ j → j < 64 * s.blk.toNat + 64 →
      j < s.len.toNat → s.cap.toNat ≤ j ∨ memRead s.msg j = none → exec .loadblk s = .fault .unwrittenRead) ∧
    (s.rsrc = .message → s.cap.toNat ≤ s.hcnt.toNat ∨ memRead s.msg s.hcnt.toNat = none →
      exec .rstep s = .fault .unwrittenRead)

/-! ### The Compressor (spec/42_compressor.md) -/

/-- R154: `COPYIN` copies the four words of `H` to the working variables, `RND` becomes 0, `PH` becomes `ROUND`, nothing else
changes; and the sequencer words that select it. -/
def Obligations.CopyinCopiesTheHashState : Prop :=
  (∀ s : State, exec .copyin s =
    .next { s with w := ⟨s.h.a, s.h.b, s.h.c, s.h.d⟩, rnd := 0, ph := .round }) ∧
  ∀ (q : BitVec 2) (j : BitVec 4), decodeSQ (sqRecord 0b010 q j) = .ok .copyin

/-- R155, R160, R161: `ROUND.FF` with round index `i = RND = j` completes: with `f` the value of `MIX.F`, the block word
number `i mod 16`, `K[i]` and the shift amount of `i mod 4`, the working variables become `(WD, temp, WB, WC)` and `RND`
counts on. Nothing else changes. -/
def Obligations.RoundFFResult : Prop :=
  ∀ (s : State) (j : BitVec 4), s.rnd.toNat = j.toNat →
    let f := (s.w.b &&& s.w.c) ||| (~~~s.w.b &&& s.w.d)
    let sum := f + s.w.a + (s.m[j.toNat]'j.isLt) + kRom s.rnd
    let temp := s.w.b + sum.rotateLeft ([7, 12, 17, 22].getD (j.toNat % 4) 0)
    exec (.roundFF j) s = .next { s with w := ⟨s.w.d, temp, s.w.b, s.w.c⟩, rnd := s.rnd + 1 }

/-- R156, R160, R161: `ROUND.GG` with round index `i = RND = 16 + j` completes: with `f` the value of `MIX.G`, the block word
number `(5i + 1) mod 16`, `K[i]` and the shift amount of `i mod 4`, the working variables become `(WD, temp, WB, WC)` and `RND`
counts on. Nothing else changes. -/
def Obligations.RoundGGResult : Prop :=
  ∀ (s : State) (j : BitVec 4), s.rnd.toNat = 16 + j.toNat →
    let f := (s.w.b &&& s.w.d) ||| (s.w.c &&& ~~~s.w.d)
    let sum := f + s.w.a + (s.m[(5 * s.rnd.toNat + 1) % 16]'(Nat.mod_lt _ (by decide))) + kRom s.rnd
    let temp := s.w.b + sum.rotateLeft ([5, 9, 14, 20].getD (j.toNat % 4) 0)
    exec (.roundGG j) s = .next { s with w := ⟨s.w.d, temp, s.w.b, s.w.c⟩, rnd := s.rnd + 1 }

/-- R157, R160, R161: `ROUND.HH` with round index `i = RND = 32 + j` completes: with `f` the value of `MIX.H`, the block word
number `(3i + 5) mod 16`, `K[i]` and the shift amount of `i mod 4`, the working variables become `(WD, temp, WB, WC)` and `RND`
counts on. Nothing else changes. -/
def Obligations.RoundHHResult : Prop :=
  ∀ (s : State) (j : BitVec 4), s.rnd.toNat = 32 + j.toNat →
    let f := s.w.b ^^^ s.w.c ^^^ s.w.d
    let sum := f + s.w.a + (s.m[(3 * s.rnd.toNat + 5) % 16]'(Nat.mod_lt _ (by decide))) + kRom s.rnd
    let temp := s.w.b + sum.rotateLeft ([4, 11, 16, 23].getD (j.toNat % 4) 0)
    exec (.roundHH j) s = .next { s with w := ⟨s.w.d, temp, s.w.b, s.w.c⟩, rnd := s.rnd + 1 }

/-- R158, R160, R161: `ROUND.II` with round index `i = RND = 48 + j` completes: with `f` the value of `MIX.I`, the block word
number `7i mod 16`, `K[i]` and the shift amount of `i mod 4`, the working variables become `(WD, temp, WB, WC)`. `RND`
counts on, or after round 63 is 0 with the phase `ADDBACK`. Nothing else changes. -/
def Obligations.RoundIIResult : Prop :=
  ∀ (s : State) (j : BitVec 4), s.rnd.toNat = 48 + j.toNat →
    let f := s.w.c ^^^ (s.w.b ||| ~~~s.w.d)
    let sum := f + s.w.a + (s.m[(7 * s.rnd.toNat) % 16]'(Nat.mod_lt _ (by decide))) + kRom s.rnd
    let temp := s.w.b + sum.rotateLeft ([6, 10, 15, 21].getD (j.toNat % 4) 0)
    (s.rnd.toNat = 63 → exec (.roundII j) s =
      .next { s with w := ⟨s.w.d, temp, s.w.b, s.w.c⟩, rnd := 0, ph := .addback }) ∧
    (s.rnd.toNat ≠ 63 → exec (.roundII j) s =
      .next { s with w := ⟨s.w.d, temp, s.w.b, s.w.c⟩, rnd := s.rnd + 1 })

/-- R159: `ADDBACK` adds each working variable to its word of `H`, counts `BLK`, and goes to `SERIAL` after the last block,
otherwise to `LOAD`; and the sequencer words that select it. -/
def Obligations.AddbackAddsTheWorkingVariables : Prop :=
  (∀ s : State,
    let h' : Quad := ⟨s.h.a + s.w.a, s.h.b + s.w.b, s.h.c + s.w.c, s.h.d + s.w.d⟩
    (s.blk.toNat + 1 = nblk s.len.toNat →
      exec .addback s = .next { s with h := h', blk := s.blk + 1, ph := .serial }) ∧
    (s.blk.toNat + 1 ≠ nblk s.len.toNat →
      exec .addback s = .next { s with h := h', blk := s.blk + 1, ph := .load })) ∧
  ∀ (q : BitVec 2) (j : BitVec 4), decodeSQ (sqRecord 0b100 q j) = .ok .addback

/-- R162: from `PH = COPY`, the 66 steps `COPYIN`, 64 rounds, `ADDBACK` leave `H = COMPRESS(H, M)`, when the host takes no
turn between them (the order of turns is the model's inbox, log 1). -/
def Obligations.CompressorComputesCompress : Prop :=
  ∀ s : State, s.ph = .copy → s.inbox = [] →
    ∃ t, Sys2Proof.core.run 66 s = .next t ∧
      t = { s with
        h := compress s.h s.m, w := rounds s.m 64 s.h, rnd := 0, blk := s.blk + 1
        ph := if s.blk.toNat + 1 = nblk s.len.toNat then .serial else .load }

/-! ### The Digest Engine (spec/43_digest_engine.md) -/

/-- R182: `START`: dropped, refused with each of its causes in their order, or accepted; and the writes that are it. -/
def Obligations.StartCommand : Prop :=
  (∀ s : State,
    (s.err = true → exec .start s = .next s) ∧
    (s.err = false → s.busy = true → exec .start s = .next { s with err := true, ecode := .busyAccess }) ∧
    (s.err = false → s.busy = false → 2 ^ 61 ≤ s.len.toNat →
      exec .start s = .next { s with err := true, ecode := .lenOverflow }) ∧
    (s.err = false → s.busy = false → s.len.toNat < 2 ^ 61 → s.cap.toNat < s.len.toNat →
      exec .start s = .next { s with err := true, ecode := .msgRange }) ∧
    (s.err = false → s.busy = false → s.len.toNat < 2 ^ 61 → s.len.toNat ≤ s.cap.toNat →
      exec .start s = .next { s with
        h := ⟨0x67452301, 0xEFCDAB89, 0x98BADCFE, 0x10325476⟩, blk := 0, rnd := 0
        done := false, hexv := false, busy := true, ph := .load })) ∧
  ∀ data : DWord, data.toNat % 256 = 0x01 → decodeHT (htRecord 0b100 0 data) = .start

/-- R186, R59: `SERIAL` writes digest byte `4w + k` from bits `8k+7` to `8k` of state word `w`, in one step with `DONE`, and
changes nothing else; and the sequencer words that select it. -/
def Obligations.SerialWritesTheDigest : Prop :=
  (∀ s : State, ∃ d : Vector Byte 16,
    exec .serial s = .next { s with dig := d, done := true, busy := false, ph := .idle } ∧
    ∀ (w k : Nat) (hw : w < 4) (hk : k < 4),
      (d[4 * w + k]'(by omega)).toNat = ([s.h.a, s.h.b, s.h.c, s.h.d].getD w 0).toNat / 2 ^ (8 * k) % 256) ∧
  ∀ (q : BitVec 2) (j : BitVec 4), decodeSQ (sqRecord 0b101 q j) = .ok .serial

/-- R188, R185, R190, R191, R192, R269: the law of the digest. An accepted `START` on a message `src` that the message memory holds, whatever
turns of the host fall between the core's steps as long as the reset input is not asserted, ends after exactly
`67 * NBLK + 1` core steps with `DONE = 1`, `BUSY = 0` and the digest of `src`; and in no earlier state of
the computation is `DONE = 1`. The order of turns is the model's inbox (log 1). -/
def Obligations.DigestComputation : Prop :=
  ∀ (s : State) (src : List Byte) (es rest : List Event),
    s.err = false → s.busy = false → src.length = s.len.toNat → s.len.toNat < 2 ^ 61 → s.len.toNat ≤ s.cap.toNat →
    (∀ (j : Nat) (hj : j < src.length), memRead s.msg j = some src[j]) →
    s.inbox = .ht (htRecord 4 0 0x01) :: es ++ [.core] ++ rest →
    (∀ e ∈ es, notReset e = true) → coreTurns es = 67 * nblk src.length →
    (∃ t, Sys2Proof.core.run (es.length + 2) s = .next t ∧ t.done = true ∧ t.busy = false ∧ t.ph = .idle ∧
      t.dig = digest src.length (fun j => src.getD j 0) ∧ t.inbox = rest) ∧
    ∀ (n : Nat) (u : State), 1 ≤ n → n < es.length + 2 → Sys2Proof.core.run n s = .next u →
      u.done = false ∧ u.busy = true

/-- R193: the digest is stable: a step from `DONE = 1` changes neither `DONE` nor `DIG`, unless it is an accepted `START` or a
`RESET`. The premise is the invariant `BlockInv`, which `StepKeepsInvariant` states. -/
def Obligations.DigestIsStable : Prop :=
  ∀ s t : State, BlockInv s → s.done = true → step s = .next t →
    (t.done = true ∧ t.dig = s.dig) ∨
    (∃ r rest, s.inbox = .ht r :: rest ∧ decodeHT r = .start ∧ s.err = false ∧ s.busy = false ∧
      s.len.toNat < 2 ^ 61 ∧ s.len.toNat ≤ s.cap.toNat) ∨
    ∃ rest, s.inbox = .sig 1 :: rest

/-! ### The Hex Renderer (spec/44_hex_renderer.md) -/

/-- R210: the character of each 4-bit value: the digits from `0x30`, the lowercase letters from `0x61`. -/
def Obligations.HexCharacters : Prop :=
  ∀ n : BitVec 4,
    (n.toNat ≤ 9 → (nibChr n).toNat = 0x30 + n.toNat) ∧
    (10 ≤ n.toNat → (nibChr n).toNat = 0x61 + (n.toNat - 10))

/-- R212, R217: the text of `n` bytes has `2n` characters, characters `2k` and `2k + 1` are those of byte `k`, and decoding
it yields the original bytes; so different byte sequences have different texts. -/
def Obligations.HexRoundTrip : Prop :=
  ∀ src : List Byte,
    (hexStr src).length = 2 * src.length ∧
    (∀ (k : Nat) (hk : k < src.length),
      (hexStr src)[2 * k]? = some (nibChr ((src[k]).extractLsb' 4 4)) ∧
      (hexStr src)[2 * k + 1]? = some (nibChr ((src[k]).extractLsb' 0 4))) ∧
    hexDecode (hexStr src) = some src ∧
    ∀ src' : List Byte, hexStr src' = hexStr src → src' = src

/-- R213: `RENDER.DIG`: dropped, refused, or accepted; and the writes that are it. -/
def Obligations.RenderDigCommand : Prop :=
  (∀ s : State,
    (s.err = true → exec .renderDig s = .next s) ∧
    (s.err = false → s.busy = true → exec .renderDig s = .next { s with err := true, ecode := .busyAccess }) ∧
    (s.err = false → s.busy = false → s.done = false →
      exec .renderDig s = .next { s with err := true, ecode := .srcNotValid }) ∧
    (s.err = false → s.busy = false → s.done = true →
      exec .renderDig s = .next { s with
        rsrc := .digest, hcnt := 0, hlen := 32, hexv := false, busy := true, ph := .render })) ∧
  ∀ data : DWord, data.toNat % 256 = 0x02 → decodeHT (htRecord 0b100 0 data) = .renderDig

/-- R214: `RENDER.MSG`: dropped, refused, or accepted; and the writes that are it. -/
def Obligations.RenderMsgCommand : Prop :=
  (∀ s : State,
    (s.err = true → exec .renderMsg s = .next s) ∧
    (s.err = false → s.busy = true → exec .renderMsg s = .next { s with err := true, ecode := .busyAccess }) ∧
    (s.err = false → s.busy = false → s.cap.toNat < s.len.toNat →
      exec .renderMsg s = .next { s with err := true, ecode := .msgRange }) ∧
    (s.err = false → s.busy = false → s.len = 0 →
      exec .renderMsg s = .next { s with rsrc := .message, hcnt := 0, hlen := 0, hexv := true }) ∧
    (s.err = false → s.busy = false → s.len ≠ 0 → s.len.toNat ≤ s.cap.toNat →
      exec .renderMsg s = .next { s with
        rsrc := .message, hcnt := 0, hlen := BitVec.ofNat 64 (2 * s.len.toNat), hexv := false, busy := true
        ph := .render })) ∧
  ∀ data : DWord, data.toNat % 256 = 0x0A → decodeHT (htRecord 0b100 0 data) = .renderMsg

/-- R215: `RSTEP` renders one source byte `v`: the digest byte or the written message byte number `HCNT` becomes two
characters, every other cell of `HEXO` reads as before, and the last byte ends the render. -/
def Obligations.RstepRendersOneByte : Prop :=
  ∀ (s : State) (v : Byte),
    ((s.rsrc = .digest ∧ s.hcnt.toNat < 16 ∧ s.dig[s.hcnt.toNat]? = some v) ∨
      (s.rsrc = .message ∧ s.hcnt.toNat < s.cap.toNat ∧ memRead s.msg s.hcnt.toNat = some v)) →
    ∃ x : Mem,
      (2 * (s.hcnt.toNat + 1) = s.hlen.toNat → exec .rstep s = .next { s with
        hexo := x, hcnt := s.hcnt + 1, hexv := true, busy := false, ph := .idle }) ∧
      (2 * (s.hcnt.toNat + 1) ≠ s.hlen.toNat → exec .rstep s = .next { s with hexo := x, hcnt := s.hcnt + 1 }) ∧
      memRead x (2 * s.hcnt.toNat) = some (nibChr (v.extractLsb' 4 4)) ∧
      memRead x (2 * s.hcnt.toNat + 1) = some (nibChr (v.extractLsb' 0 4)) ∧
      ∀ a, a ≠ 2 * s.hcnt.toNat → a ≠ 2 * s.hcnt.toNat + 1 → memRead x a = memRead s.hexo a

/-- R216: the law of a render. An accepted render of `n > 0` source bytes `src` (the digest, or the written message), whatever
turns of the host fall between the core's steps as long as the reset input is not asserted, ends after exactly `n` core
steps with `HEXV = 1`, `BUSY = 0`, `HLEN = 2n` and the text of `src` in `HEXO`. The order of turns is the model's inbox
(log 1). -/
def Obligations.RenderComputation : Prop :=
  ∀ (s : State) (src : List Byte) (cw : DWord) (es rest : List Event),
    s.err = false → s.busy = false →
    ((cw = 0x02 ∧ s.done = true ∧ src = s.dig.toList) ∨
      (cw = 0x0A ∧ src.length = s.len.toNat ∧ s.len.toNat ≤ s.cap.toNat ∧ s.len ≠ 0 ∧
        ∀ (j : Nat) (hj : j < src.length), memRead s.msg j = some src[j])) →
    s.inbox = .ht (htRecord 4 0 cw) :: es ++ [.core] ++ rest →
    (∀ e ∈ es, notReset e = true) → coreTurns es + 1 = src.length →
    ∃ t, Sys2Proof.core.run (es.length + 2) s = .next t ∧ t.hexv = true ∧ t.busy = false ∧ t.ph = .idle ∧
      t.hlen.toNat = 2 * src.length ∧ t.inbox = rest ∧
      ∀ (p : Nat) (hp : p < (hexStr src).length), memRead t.hexo p = some (hexStr src)[p]

/-! ### The host port (spec/45_host_port.md) -/

/-- R231, R31, R89, R261: `HRD.REG` returns the register of that number, `STATUS` with each flag at its bit and `ECODE` as the
code of its cause; `CMD` and the numbers above 5 read 0. That the value
returned is kept in `rdata` is the model's choice (log 6). -/
def Obligations.RegisterReads : Prop :=
  ∀ (s : State) (addr : DWord), ∃ v : DWord,
    exec (.hrdReg addr) s = .next { s with rdata := v } ∧
    (addr = 0 → v = 0) ∧
    (addr = 1 → v.toNat = s.busy.toNat + 2 * s.done.toNat + 4 * s.hexv.toNat + 8 * s.err.toNat) ∧
    (addr = 2 → v = s.len) ∧
    (addr = 3 → v.toNat =
      match s.ecode with
      | .none => 0
      | .lenOverflow => 1
      | .msgRange => 2
      | .busyAccess => 3
      | .illegalCmd => 4
      | .srcNotValid => 5
      | .badWrite => 6) ∧
    (addr = 4 → v = s.hlen) ∧
    (addr = 5 → v.toNat = s.cap.toNat) ∧
    (5 < addr.toNat → v = 0)

/-- R232: `HRD.MSG` returns the byte of a written cell that exists, otherwise a free byte. -/
def Obligations.MessageReads : Prop :=
  ∀ (s : State) (addr : DWord),
    (∀ v, addr.toNat < s.cap.toNat → memRead s.msg addr.toNat = some v →
      exec (.hrdMsg addr) s = .next { s with rdata := BitVec.ofNat 64 v.toNat }) ∧
    (s.cap.toNat ≤ addr.toNat ∨ memRead s.msg addr.toNat = none →
      exec (.hrdMsg addr) s =
        .next { s with rdata := BitVec.ofNat 64 (Config.draw8 s.draws).toNat, draws := s.draws + 1 })

/-- R233: `HRD.DIG` returns a digest byte while `DONE = 1`, otherwise a free byte. -/
def Obligations.DigestReads : Prop :=
  ∀ (s : State) (addr : DWord),
    (∀ (h : addr.toNat < 16), s.done = true →
      exec (.hrdDig addr) s = .next { s with rdata := BitVec.ofNat 64 (s.dig[addr.toNat]'h).toNat }) ∧
    (s.done = false ∨ 16 ≤ addr.toNat →
      exec (.hrdDig addr) s =
        .next { s with rdata := BitVec.ofNat 64 (Config.draw8 s.draws).toNat, draws := s.draws + 1 })

/-- R234: `HRD.HEXO` returns a character of the valid text (written, by the invariant), otherwise a free byte. -/
def Obligations.HexTextReads : Prop :=
  ∀ (s : State) (addr : DWord),
    (BlockInv s → s.hexv = true → addr.toNat < s.hlen.toNat → ∃ v, memRead s.hexo addr.toNat = some v ∧
      exec (.hrdHexo addr) s = .next { s with rdata := BitVec.ofNat 64 v.toNat }) ∧
    (s.hexv = false ∨ s.hlen.toNat ≤ addr.toNat →
      exec (.hrdHexo addr) s =
        .next { s with rdata := BitVec.ofNat 64 (Config.draw8 s.draws).toNat, draws := s.draws + 1 })

/-- R66, R296 (d): a host read completes in every state and changes no state of the block. -/
def Obligations.ReadsChangeNothing : Prop :=
  ∀ (i : Instr) (s : State), isHostRead i = true →
    ∃ v n, exec i s = .next { s with rdata := v, draws := n } ∧ s.draws ≤ n

/-- R235, R90, R93: the register writes of an open block (`ERR = 0`, `BUSY = 0`): any `u64` into `LEN`, an illegal command
word refused, every other register refused; and the commands are the three words of R82, whatever `data[63:8]`. -/
def Obligations.RegisterWrites : Prop :=
  ∀ s : State, s.err = false → s.busy = false →
    (∀ data : DWord, exec (.hwrRegLen data) s = .next { s with len := data }) ∧
    (∀ cw : Byte, cw ≠ 0x01 → cw ≠ 0x02 → cw ≠ 0x0A →
      exec (.hwrRegCmdIllegal cw) s = .next { s with err := true, ecode := .illegalCmd }) ∧
    (∀ addr data : DWord, addr ≠ 0 → addr ≠ 2 →
      exec (.hwrReg addr data) s = .next { s with err := true, ecode := .badWrite }) ∧
    (∀ data : DWord, decodeFields 4 2 data = .hwrRegLen data) ∧
    (∀ addr data : DWord, addr ≠ 0 → addr ≠ 2 → decodeFields 4 addr data = .hwrReg addr data) ∧
    (∀ data : DWord,
      (data.toNat % 256 = 0x01 → decodeFields 4 0 data = .start) ∧
      (data.toNat % 256 = 0x02 → decodeFields 4 0 data = .renderDig) ∧
      (data.toNat % 256 = 0x0A → decodeFields 4 0 data = .renderMsg) ∧
      (data.toNat % 256 ≠ 0x01 → data.toNat % 256 ≠ 0x02 → data.toNat % 256 ≠ 0x0A →
        decodeFields 4 0 data = .hwrRegCmdIllegal (BitVec.ofNat 8 data.toNat)))

/-- R236: `HWR.MSG`: the gate; in an open block it writes one byte of the message memory, and every other cell reads as
before; an address outside the memory is refused; and the records that are it. -/
def Obligations.MessageWrites : Prop :=
  (∀ (s : State) (addr : DWord) (value : Byte),
    (s.err = true → exec (.hwrMsg addr value) s = .next s) ∧
    (s.err = false → s.busy = true →
      exec (.hwrMsg addr value) s = .next { s with err := true, ecode := .busyAccess }) ∧
    (s.err = false → s.busy = false → addr.toNat < s.cap.toNat → ∃ x : Mem,
      exec (.hwrMsg addr value) s = .next { s with msg := x } ∧
      memRead x addr.toNat = some value ∧
      ∀ a, a ≠ addr.toNat → memRead x a = memRead s.msg a) ∧
    (s.err = false → s.busy = false → s.cap.toNat ≤ addr.toNat →
      exec (.hwrMsg addr value) s = .next { s with err := true, ecode := .badWrite })) ∧
  ∀ addr data : DWord, decodeHT (htRecord 0b101 addr data) = .hwrMsg addr (BitVec.ofNat 8 data.toNat)

/-- R237: writes to the digest and to the hex text: the gate, and then always a refusal, for every address; and the records
that are they. -/
def Obligations.ResultSpacesAreReadOnly : Prop :=
  (∀ (s : State) (addr data : DWord),
    (s.err = true → exec (.hwrDig addr data) s = .next s ∧ exec (.hwrHexo addr data) s = .next s) ∧
    (s.err = false → s.busy = true →
      exec (.hwrDig addr data) s = .next { s with err := true, ecode := .busyAccess } ∧
      exec (.hwrHexo addr data) s = .next { s with err := true, ecode := .busyAccess }) ∧
    (s.err = false → s.busy = false →
      exec (.hwrDig addr data) s = .next { s with err := true, ecode := .badWrite } ∧
      exec (.hwrHexo addr data) s = .next { s with err := true, ecode := .badWrite })) ∧
  ∀ addr data : DWord, decodeHT (htRecord 0b110 addr data) = .hwrDig addr data ∧
    decodeHT (htRecord 0b111 addr data) = .hwrHexo addr data

/-- R238, R263, R264: the write gate holds for every host write, whatever its target: no effect of any kind while
`ERR = 1`, `BUSY_ACCESS` while `BUSY = 1`. -/
def Obligations.WriteGate : Prop :=
  ∀ (i : Instr) (s : State), isHostWrite i = true →
    (s.err = true → exec i s = .next s) ∧
    (s.err = false → s.busy = true → exec i s = .next { s with err := true, ecode := .busyAccess })

/-! ### Refusals (spec/60_exceptions.md) -/

/-- R262: raising a refusal sets `ERR` and records the cause, nothing else; and a host write that sets `ERR` does exactly
that, for one of the six causes. -/
def Obligations.RefusalWritesErrOnly : Prop :=
  (∀ (c : Cause) (s : State), raiseRefusal c s = { s with err := true, ecode := c }) ∧
  ∀ (i : Instr) (s t : State), isHostWrite i = true → s.err = false → exec i s = .next t → t.err = true →
    ∃ c : Cause, c ≠ .none ∧ t = raiseRefusal c s

/-- R263, R265, R266: `ERR` and `ECODE` are cleared by `RESET` and by nothing else: while `ERR = 1` every other operation
that completes leaves both as they are, and only a host write changes either. -/
def Obligations.FirstCauseIsKept : Prop :=
  ∀ (i : Instr) (s t : State), exec i s = .next t → i ≠ .reset →
    (s.err = true → t.err = true ∧ t.ecode = s.ecode) ∧
    (isHostWrite i = false → t.err = s.err ∧ t.ecode = s.ecode)

/-- R269, R191, R70: while `BUSY = 1` no turn of the host but an assertion of the reset input changes anything of the block
but `ERR` and `ECODE`: the computation in progress is not disturbed, the message and its length do not change. -/
def Obligations.HostCannotDisturb : Prop :=
  ∀ (s : State) (e : Event), s.busy = true → e ≠ .core → notReset e = true →
    ∃ t, takeEvent e s = .next t ∧ sameBlock { s with err := t.err, ecode := t.ecode } t ∧ t.inbox = s.inbox

/-! ### Reset and the whole machine -/

/-- R40: the values the spec gives for reset; the memories hold no value anywhere (log 4) and `CAP` is `MSG_CAP` (log 2). -/
def Obligations.ResetValues : Prop :=
  State.reset.ph = .idle ∧ State.reset.busy = false ∧ State.reset.done = false ∧ State.reset.hexv = false ∧
  State.reset.err = false ∧ State.reset.ecode = .none ∧ State.reset.len = 0 ∧ State.reset.hlen = 0 ∧
  State.reset.blk = 0 ∧ State.reset.rnd = 0 ∧ State.reset.hcnt = 0 ∧ State.reset.rsrc = .digest ∧
  State.reset.cap = Config.msgCap ∧
  ∀ a, memRead State.reset.msg a = none ∧ memRead State.reset.hexo a = none

/-- R290, R291: `RESET` completes in every state and leaves every value R40 gives; `CAP` is not touched. That the model's
own fields keep their values is the model's choice (log 3). -/
def Obligations.ResetOperation : Prop :=
  ∀ s : State, ∃ h w m d n,
    exec .reset s = .next { s with
      h := h, w := w, m := m, dig := d
      ph := .idle, blk := 0, rnd := 0, hcnt := 0, rsrc := .digest
      busy := false, done := false, hexv := false, err := false, ecode := .none, len := 0, hlen := 0
      msg := [], hexo := [], draws := n }

/-- R30, R40: the invariant holds at reset. It includes the six sentences of R30, and the canonical form and the range of the
memories. -/
def Obligations.InvariantHoldsAtReset : Prop := BlockInv State.reset

/-- R30 and the rules `BlockInv` names: every step, of either agent, keeps the invariant. -/
def Obligations.StepKeepsInvariant : Prop :=
  ∀ s t : State, BlockInv s → step s = .next t → BlockInv t

/-- R260, R274: in a state that meets the invariant a step completes, unless it is the model fault `UnwrittenRead`. -/
def Obligations.OnlyUnwrittenReadStops : Prop :=
  ∀ s : State, BlockInv s → (∃ t, step s = .next t) ∨ step s = .fault .unwrittenRead

/-- R37, R28, R296 (c), R36: which operations can change each piece of state, `RESET` apart. `MSG` and `LEN` change in an open
block only, and `CAP` never. -/
def Obligations.WhoWritesWhat : Prop :=
  ∀ (i : Instr) (s t : State), exec i s = .next t → i ≠ .reset →
    (t.h ≠ s.h → i = .start ∨ i = .addback) ∧
    (t.w ≠ s.w → i = .copyin ∨ ∃ j, i = .roundFF j ∨ i = .roundGG j ∨ i = .roundHH j ∨ i = .roundII j) ∧
    (t.m ≠ s.m → i = .loadblk) ∧
    (t.dig ≠ s.dig → i = .serial) ∧
    (t.hexo ≠ s.hexo → i = .rstep) ∧
    (t.msg ≠ s.msg → (∃ a v, i = .hwrMsg a v) ∧ s.busy = false ∧ s.err = false) ∧
    (t.len ≠ s.len → (∃ d, i = .hwrRegLen d) ∧ s.busy = false ∧ s.err = false) ∧
    (t.hlen ≠ s.hlen → i = .renderDig ∨ i = .renderMsg) ∧
    (t.ph ≠ s.ph → i = .start ∨ i = .renderDig ∨ i = .renderMsg ∨ i = .loadblk ∨ i = .copyin ∨ i = .roundII 15 ∨
      i = .addback ∨ i = .serial ∨ i = .rstep) ∧
    (t.blk ≠ s.blk → i = .start ∨ i = .addback) ∧
    (t.rnd ≠ s.rnd → i = .start ∨ i = .copyin ∨
      ∃ j, i = .roundFF j ∨ i = .roundGG j ∨ i = .roundHH j ∨ i = .roundII j) ∧
    (t.hcnt ≠ s.hcnt → i = .renderDig ∨ i = .renderMsg ∨ i = .rstep) ∧
    (t.rsrc ≠ s.rsrc → i = .renderDig ∨ i = .renderMsg) ∧
    (t.busy ≠ s.busy → i = .start ∨ i = .renderDig ∨ i = .renderMsg ∨ i = .serial ∨ i = .rstep) ∧
    (t.done ≠ s.done → i = .start ∨ i = .serial) ∧
    (t.hexv ≠ s.hexv → i = .start ∨ i = .renderDig ∨ i = .renderMsg ∨ i = .rstep) ∧
    (t.err ≠ s.err ∨ t.ecode ≠ s.ecode → isHostWrite i = true) ∧
    t.cap = s.cap

/-- spec/93_implementation_defined.md U5, spec/10_state.md R41: what `H`, `W` and `M` hold after reset and between computations is
never observed. Two states that differ there only (and in the model's `fOut`, log 7) take every step alike, and so differ
there only after it. -/
def Obligations.DeadRegistersAreNeverObserved : Prop :=
  ∀ s t : State, sameLive s t → sameEnd sameLive (step s) (step t)

/-- R70, R32: while `BUSY = 1` and the reset input is not asserted, no step of either agent changes the message memory or
`LEN`. -/
def Obligations.MessageIsBorrowedReadOnly : Prop :=
  ∀ s t : State, s.busy = true → step s = .next t → (∀ rest, s.inbox ≠ .sig 1 :: rest) →
    t.msg = s.msg ∧ t.len = s.len

/-- R183, R30: the transitions of the phase. A step that completes leaves the phase unchanged or makes one of the
transitions of R183's table, reset apart. -/
def Obligations.PhaseTransitions : Prop :=
  ∀ s t : State, BlockInv s → step s = .next t → (∀ rest, s.inbox ≠ .sig 1 :: rest) →
    t.ph = s.ph ∨
    (s.ph = .idle ∧ t.ph = .load ∧ t.blk = 0 ∧ t.rnd = 0) ∨
    (s.ph = .idle ∧ t.ph = .render ∧ t.hcnt = 0) ∨
    (s.ph = .load ∧ t.ph = .copy) ∨
    (s.ph = .copy ∧ t.ph = .round ∧ t.rnd = 0) ∨
    (s.ph = .round ∧ t.ph = .addback ∧ s.rnd = 63 ∧ t.rnd = 0) ∨
    (s.ph = .addback ∧ t.ph = .load ∧ s.blk.toNat + 1 < nblk s.len.toNat ∧ t.blk = s.blk + 1) ∨
    (s.ph = .addback ∧ t.ph = .serial ∧ s.blk.toNat + 1 = nblk s.len.toNat ∧ t.blk = s.blk + 1) ∨
    (s.ph = .serial ∧ t.ph = .idle) ∨
    (s.ph = .render ∧ t.ph = .idle ∧ 2 * (s.hcnt.toNat + 1) = s.hlen.toNat ∧ t.hcnt = s.hcnt + 1)
end

