-- ==== Sys2Proof/Laws/Decode.lean ====
section
/-! SUPPORT. The fields of a record put together are the fields it was made of (spec/30_encoding.md R81, R83). -/

namespace Sys2Proof

@[simp] theorem htHdr_htRecord (hdr : BitVec 3) (addr data : DWord) : htHdr (htRecord hdr addr data) = hdr := by
  apply BitVec.eq_of_getLsbD_eq
  intro i hi
  simp only [htHdr, htRecord, BitVec.getLsbD_extractLsb', BitVec.getLsbD_cast, BitVec.getLsbD_append]
  simp [hi, show ¬ (128 + i < 64) by omega, show ¬ (128 + i - 64 < 64) by omega,
    show 128 + i - 64 - 64 = i by omega]

@[simp] theorem htAddr_htRecord (hdr : BitVec 3) (addr data : DWord) : htAddr (htRecord hdr addr data) = addr := by
  apply BitVec.eq_of_getLsbD_eq
  intro i hi
  simp only [htAddr, htRecord, BitVec.getLsbD_extractLsb', BitVec.getLsbD_cast, BitVec.getLsbD_append]
  simp [hi, show ¬ (64 + i < 64) by omega, show 64 + i - 64 = i by omega]

@[simp] theorem htData_htRecord (hdr : BitVec 3) (addr data : DWord) : htData (htRecord hdr addr data) = data := by
  apply BitVec.eq_of_getLsbD_eq
  intro i hi
  simp only [htData, htRecord, BitVec.getLsbD_extractLsb', BitVec.getLsbD_cast, BitVec.getLsbD_append]
  simp [hi]

/-- Decoding a record made of its fields is decoding the fields. -/
theorem decodeHT_htRecord (hdr : BitVec 3) (addr data : DWord) :
    decodeHT (htRecord hdr addr data) = decodeFields hdr addr data := by
  simp [decodeHT]

/-- A record is made of its fields. -/
theorem htRecord_fields (r : Record) : htRecord (htHdr r) (htAddr r) (htData r) = r := by
  apply BitVec.eq_of_getLsbD_eq
  intro i hi
  simp only [htHdr, htAddr, htData, htRecord, BitVec.getLsbD_extractLsb', BitVec.getLsbD_cast, BitVec.getLsbD_append]
  by_cases h0 : i < 64
  · simp [h0]
  · by_cases h1 : i - 64 < 64
    · simp [h0, h1, show 64 + (i - 64) = i by omega]
    · have h2 : i - 64 - 64 < 3 := by omega
      simp [h0, h1, h2, show 128 + (i - 64 - 64) = i by omega]

/-- A sequencer word's phase field. -/
@[simp] theorem sqRecord_phase (ph : BitVec 3) (q : BitVec 2) (j : BitVec 4) :
    (sqRecord ph q j).extractLsb' 6 3 = ph := by
  apply BitVec.eq_of_getLsbD_eq
  intro i hi
  simp only [sqRecord, BitVec.getLsbD_extractLsb', BitVec.getLsbD_cast, BitVec.getLsbD_append]
  simp [hi, show ¬ (6 + i < 4) by omega, show ¬ (6 + i - 4 < 2) by omega, show 6 + i - 4 - 2 = i by omega]

/-- A sequencer word's quartile field. -/
@[simp] theorem sqRecord_quartile (ph : BitVec 3) (q : BitVec 2) (j : BitVec 4) :
    (sqRecord ph q j).extractLsb' 4 2 = q := by
  apply BitVec.eq_of_getLsbD_eq
  intro i hi
  simp only [sqRecord, BitVec.getLsbD_extractLsb', BitVec.getLsbD_cast, BitVec.getLsbD_append]
  simp [hi, show ¬ (4 + i < 4) by omega, show 4 + i - 4 = i by omega]

/-- A sequencer word's position field. -/
@[simp] theorem sqRecord_position (ph : BitVec 3) (q : BitVec 2) (j : BitVec 4) :
    (sqRecord ph q j).extractLsb' 0 4 = j := by
  apply BitVec.eq_of_getLsbD_eq
  intro i hi
  simp only [sqRecord, BitVec.getLsbD_extractLsb', BitVec.getLsbD_cast, BitVec.getLsbD_append]
  simp [hi]

end Sys2Proof
end

