-- ==== Sys2Proof/Laws/Memory.lean ====
section
/-! SUPPORT. The byte memories: read after write, and the canonical form that every write keeps. -/

namespace Sys2Proof.Machine

@[simp] theorem memRead_nil (a : Nat) : memRead [] a = none := rfl

theorem memRead_cons (b : Nat) (v : Byte) (rest : Mem) (a : Nat) :
    memRead ((b, v) :: rest) a = if a = b then some v else memRead rest a := rfl

/-- A read after a write of the same cell gives the byte written. -/
@[simp] theorem memRead_memWrite_same (m : Mem) (a : Nat) (v : Byte) :
    memRead (memWrite m a v) a = some v := by
  induction m with
  | nil => simp [memWrite, memRead_cons]
  | cons c rest ih =>
    obtain ⟨b, u⟩ := c
    simp only [memWrite]
    split
    · simp [memRead_cons]
    · split
      · simp [memRead_cons]
      · next hne => simp [memRead_cons, hne, ih]

/-- A write leaves every other cell alone. -/
theorem memRead_memWrite_other (m : Mem) {a b : Nat} (v : Byte) (h : b ≠ a) :
    memRead (memWrite m a v) b = memRead m b := by
  induction m with
  | nil => simp [memWrite, memRead_cons, h]
  | cons c rest ih =>
    obtain ⟨d, u⟩ := c
    simp only [memWrite]
    split
    · simp [memRead_cons, h]
    · split
      · next heq => subst heq; simp [memRead_cons, h]
      · simp [memRead_cons, ih]

/-- The cells a write leaves listed are the ones before, or the cell written. -/
theorem mem_memWrite {m : Mem} {a : Nat} {v : Byte} {c : Host.Cell} (h : c ∈ memWrite m a v) :
    c ∈ m ∨ c = (a, v) := by
  induction m with
  | nil => simpa [memWrite] using h
  | cons d rest ih =>
    obtain ⟨b, u⟩ := d
    simp only [memWrite] at h
    split at h
    · simp only [List.mem_cons] at h ⊢
      tauto
    · split at h
      · simp only [List.mem_cons] at h ⊢
        tauto
      · simp only [List.mem_cons] at h ⊢
        rcases h with h | h
        · tauto
        · rcases ih h with h | h <;> tauto

/-- A write keeps the canonical form. -/
theorem memWrite_wf {m : Mem} (hm : memWf m) (a : Nat) (v : Byte) : memWf (memWrite m a v) := by
  induction m with
  | nil => simp [memWrite]
  | cons d rest ih =>
    obtain ⟨b, u⟩ := d
    have hrest := List.pairwise_cons.mp hm
    simp only [memWrite]
    split
    · next hab =>
      refine List.pairwise_cons.mpr ⟨fun c hc => ?_, hm⟩
      rcases List.mem_cons.mp hc with rfl | hc
      · exact hab
      · exact lt_trans hab (hrest.1 c hc)
    · split
      · next heq => subst heq; exact List.pairwise_cons.mpr ⟨hrest.1, hrest.2⟩
      · next hlt hne =>
        refine List.pairwise_cons.mpr ⟨fun c hc => ?_, ih hrest.2⟩
        rcases mem_memWrite hc with hc | rfl
        · exact hrest.1 c hc
        · show b < a
          omega

/-- The memories of the machine after reset are in canonical form. -/
theorem reset_msg_wf : memWf State.reset.msg := List.Pairwise.nil

theorem reset_hexo_wf : memWf State.reset.hexo := List.Pairwise.nil

end Sys2Proof.Machine
end

