-- ==== Sys2Proof/Laws/State.lean ====
section
/-! SUPPORT. What each named update of the state does to each field: one lemma per field per update, true by definition. -/

namespace Sys2Proof.Machine

/-! ### a refusal (R262) -/

@[simp] theorem raiseRefusal_h (c : Cause) (s : State) : (raiseRefusal c s).h = s.h := rfl
@[simp] theorem raiseRefusal_w (c : Cause) (s : State) : (raiseRefusal c s).w = s.w := rfl
@[simp] theorem raiseRefusal_m (c : Cause) (s : State) : (raiseRefusal c s).m = s.m := rfl
@[simp] theorem raiseRefusal_dig (c : Cause) (s : State) : (raiseRefusal c s).dig = s.dig := rfl
@[simp] theorem raiseRefusal_ph (c : Cause) (s : State) : (raiseRefusal c s).ph = s.ph := rfl
@[simp] theorem raiseRefusal_blk (c : Cause) (s : State) : (raiseRefusal c s).blk = s.blk := rfl
@[simp] theorem raiseRefusal_rnd (c : Cause) (s : State) : (raiseRefusal c s).rnd = s.rnd := rfl
@[simp] theorem raiseRefusal_hcnt (c : Cause) (s : State) : (raiseRefusal c s).hcnt = s.hcnt := rfl
@[simp] theorem raiseRefusal_rsrc (c : Cause) (s : State) : (raiseRefusal c s).rsrc = s.rsrc := rfl
@[simp] theorem raiseRefusal_busy (c : Cause) (s : State) : (raiseRefusal c s).busy = s.busy := rfl
@[simp] theorem raiseRefusal_done (c : Cause) (s : State) : (raiseRefusal c s).done = s.done := rfl
@[simp] theorem raiseRefusal_hexv (c : Cause) (s : State) : (raiseRefusal c s).hexv = s.hexv := rfl
@[simp] theorem raiseRefusal_err (c : Cause) (s : State) : (raiseRefusal c s).err = true := rfl
@[simp] theorem raiseRefusal_ecode (c : Cause) (s : State) : (raiseRefusal c s).ecode = c := rfl
@[simp] theorem raiseRefusal_len (c : Cause) (s : State) : (raiseRefusal c s).len = s.len := rfl
@[simp] theorem raiseRefusal_hlen (c : Cause) (s : State) : (raiseRefusal c s).hlen = s.hlen := rfl
@[simp] theorem raiseRefusal_cap (c : Cause) (s : State) : (raiseRefusal c s).cap = s.cap := rfl
@[simp] theorem raiseRefusal_msg (c : Cause) (s : State) : (raiseRefusal c s).msg = s.msg := rfl
@[simp] theorem raiseRefusal_hexo (c : Cause) (s : State) : (raiseRefusal c s).hexo = s.hexo := rfl
@[simp] theorem raiseRefusal_draws (c : Cause) (s : State) : (raiseRefusal c s).draws = s.draws := rfl
@[simp] theorem raiseRefusal_rdata (c : Cause) (s : State) : (raiseRefusal c s).rdata = s.rdata := rfl
@[simp] theorem raiseRefusal_fOut (c : Cause) (s : State) : (raiseRefusal c s).fOut = s.fOut := rfl
@[simp] theorem raiseRefusal_gOut (c : Cause) (s : State) : (raiseRefusal c s).gOut = s.gOut := rfl
@[simp] theorem raiseRefusal_inbox (c : Cause) (s : State) : (raiseRefusal c s).inbox = s.inbox := rfl

/-! ### a read that has a value (R81) -/

@[simp] theorem returnValue_h (v : DWord) (s : State) : (returnValue v s).h = s.h := rfl
@[simp] theorem returnValue_w (v : DWord) (s : State) : (returnValue v s).w = s.w := rfl
@[simp] theorem returnValue_m (v : DWord) (s : State) : (returnValue v s).m = s.m := rfl
@[simp] theorem returnValue_dig (v : DWord) (s : State) : (returnValue v s).dig = s.dig := rfl
@[simp] theorem returnValue_ph (v : DWord) (s : State) : (returnValue v s).ph = s.ph := rfl
@[simp] theorem returnValue_blk (v : DWord) (s : State) : (returnValue v s).blk = s.blk := rfl
@[simp] theorem returnValue_rnd (v : DWord) (s : State) : (returnValue v s).rnd = s.rnd := rfl
@[simp] theorem returnValue_hcnt (v : DWord) (s : State) : (returnValue v s).hcnt = s.hcnt := rfl
@[simp] theorem returnValue_rsrc (v : DWord) (s : State) : (returnValue v s).rsrc = s.rsrc := rfl
@[simp] theorem returnValue_busy (v : DWord) (s : State) : (returnValue v s).busy = s.busy := rfl
@[simp] theorem returnValue_done (v : DWord) (s : State) : (returnValue v s).done = s.done := rfl
@[simp] theorem returnValue_hexv (v : DWord) (s : State) : (returnValue v s).hexv = s.hexv := rfl
@[simp] theorem returnValue_err (v : DWord) (s : State) : (returnValue v s).err = s.err := rfl
@[simp] theorem returnValue_ecode (v : DWord) (s : State) : (returnValue v s).ecode = s.ecode := rfl
@[simp] theorem returnValue_len (v : DWord) (s : State) : (returnValue v s).len = s.len := rfl
@[simp] theorem returnValue_hlen (v : DWord) (s : State) : (returnValue v s).hlen = s.hlen := rfl
@[simp] theorem returnValue_cap (v : DWord) (s : State) : (returnValue v s).cap = s.cap := rfl
@[simp] theorem returnValue_msg (v : DWord) (s : State) : (returnValue v s).msg = s.msg := rfl
@[simp] theorem returnValue_hexo (v : DWord) (s : State) : (returnValue v s).hexo = s.hexo := rfl
@[simp] theorem returnValue_draws (v : DWord) (s : State) : (returnValue v s).draws = s.draws := rfl
@[simp] theorem returnValue_rdata (v : DWord) (s : State) : (returnValue v s).rdata = v := rfl
@[simp] theorem returnValue_fOut (v : DWord) (s : State) : (returnValue v s).fOut = s.fOut := rfl
@[simp] theorem returnValue_gOut (v : DWord) (s : State) : (returnValue v s).gOut = s.gOut := rfl
@[simp] theorem returnValue_inbox (v : DWord) (s : State) : (returnValue v s).inbox = s.inbox := rfl

/-! ### a read that has none (U4) -/

@[simp] theorem returnDraw_h (s : State) : (returnDraw s).h = s.h := rfl
@[simp] theorem returnDraw_w (s : State) : (returnDraw s).w = s.w := rfl
@[simp] theorem returnDraw_m (s : State) : (returnDraw s).m = s.m := rfl
@[simp] theorem returnDraw_dig (s : State) : (returnDraw s).dig = s.dig := rfl
@[simp] theorem returnDraw_ph (s : State) : (returnDraw s).ph = s.ph := rfl
@[simp] theorem returnDraw_blk (s : State) : (returnDraw s).blk = s.blk := rfl
@[simp] theorem returnDraw_rnd (s : State) : (returnDraw s).rnd = s.rnd := rfl
@[simp] theorem returnDraw_hcnt (s : State) : (returnDraw s).hcnt = s.hcnt := rfl
@[simp] theorem returnDraw_rsrc (s : State) : (returnDraw s).rsrc = s.rsrc := rfl
@[simp] theorem returnDraw_busy (s : State) : (returnDraw s).busy = s.busy := rfl
@[simp] theorem returnDraw_done (s : State) : (returnDraw s).done = s.done := rfl
@[simp] theorem returnDraw_hexv (s : State) : (returnDraw s).hexv = s.hexv := rfl
@[simp] theorem returnDraw_err (s : State) : (returnDraw s).err = s.err := rfl
@[simp] theorem returnDraw_ecode (s : State) : (returnDraw s).ecode = s.ecode := rfl
@[simp] theorem returnDraw_len (s : State) : (returnDraw s).len = s.len := rfl
@[simp] theorem returnDraw_hlen (s : State) : (returnDraw s).hlen = s.hlen := rfl
@[simp] theorem returnDraw_cap (s : State) : (returnDraw s).cap = s.cap := rfl
@[simp] theorem returnDraw_msg (s : State) : (returnDraw s).msg = s.msg := rfl
@[simp] theorem returnDraw_hexo (s : State) : (returnDraw s).hexo = s.hexo := rfl
@[simp] theorem returnDraw_draws (s : State) : (returnDraw s).draws = s.draws + 1 := rfl
@[simp] theorem returnDraw_rdata (s : State) : (returnDraw s).rdata = (Config.draw8 s.draws).zeroExtend 64 := rfl
@[simp] theorem returnDraw_fOut (s : State) : (returnDraw s).fOut = s.fOut := rfl
@[simp] theorem returnDraw_gOut (s : State) : (returnDraw s).gOut = s.gOut := rfl
@[simp] theorem returnDraw_inbox (s : State) : (returnDraw s).inbox = s.inbox := rfl

/-! ### a mix formula evaluated (R112 to R115) -/

@[simp] theorem deliverMix_h (f : Word → Word → Word → Word) (s : State) : (deliverMix f s).h = s.h := rfl
@[simp] theorem deliverMix_w (f : Word → Word → Word → Word) (s : State) : (deliverMix f s).w = s.w := rfl
@[simp] theorem deliverMix_m (f : Word → Word → Word → Word) (s : State) : (deliverMix f s).m = s.m := rfl
@[simp] theorem deliverMix_dig (f : Word → Word → Word → Word) (s : State) : (deliverMix f s).dig = s.dig := rfl
@[simp] theorem deliverMix_ph (f : Word → Word → Word → Word) (s : State) : (deliverMix f s).ph = s.ph := rfl
@[simp] theorem deliverMix_blk (f : Word → Word → Word → Word) (s : State) : (deliverMix f s).blk = s.blk := rfl
@[simp] theorem deliverMix_rnd (f : Word → Word → Word → Word) (s : State) : (deliverMix f s).rnd = s.rnd := rfl
@[simp] theorem deliverMix_hcnt (f : Word → Word → Word → Word) (s : State) : (deliverMix f s).hcnt = s.hcnt := rfl
@[simp] theorem deliverMix_rsrc (f : Word → Word → Word → Word) (s : State) : (deliverMix f s).rsrc = s.rsrc := rfl
@[simp] theorem deliverMix_busy (f : Word → Word → Word → Word) (s : State) : (deliverMix f s).busy = s.busy := rfl
@[simp] theorem deliverMix_done (f : Word → Word → Word → Word) (s : State) : (deliverMix f s).done = s.done := rfl
@[simp] theorem deliverMix_hexv (f : Word → Word → Word → Word) (s : State) : (deliverMix f s).hexv = s.hexv := rfl
@[simp] theorem deliverMix_err (f : Word → Word → Word → Word) (s : State) : (deliverMix f s).err = s.err := rfl
@[simp] theorem deliverMix_ecode (f : Word → Word → Word → Word) (s : State) : (deliverMix f s).ecode = s.ecode := rfl
@[simp] theorem deliverMix_len (f : Word → Word → Word → Word) (s : State) : (deliverMix f s).len = s.len := rfl
@[simp] theorem deliverMix_hlen (f : Word → Word → Word → Word) (s : State) : (deliverMix f s).hlen = s.hlen := rfl
@[simp] theorem deliverMix_cap (f : Word → Word → Word → Word) (s : State) : (deliverMix f s).cap = s.cap := rfl
@[simp] theorem deliverMix_msg (f : Word → Word → Word → Word) (s : State) : (deliverMix f s).msg = s.msg := rfl
@[simp] theorem deliverMix_hexo (f : Word → Word → Word → Word) (s : State) : (deliverMix f s).hexo = s.hexo := rfl
@[simp] theorem deliverMix_draws (f : Word → Word → Word → Word) (s : State) : (deliverMix f s).draws = s.draws := rfl
@[simp] theorem deliverMix_rdata (f : Word → Word → Word → Word) (s : State) : (deliverMix f s).rdata = s.rdata := rfl
@[simp] theorem deliverMix_fOut (f : Word → Word → Word → Word) (s : State) : (deliverMix f s).fOut = f s.w.b s.w.c s.w.d := rfl
@[simp] theorem deliverMix_gOut (f : Word → Word → Word → Word) (s : State) : (deliverMix f s).gOut = s.gOut := rfl
@[simp] theorem deliverMix_inbox (f : Word → Word → Word → Word) (s : State) : (deliverMix f s).inbox = s.inbox := rfl

/-! ### a word-index formula evaluated (R117) -/

@[simp] theorem deliverWidx_h (g : Round → BitVec 4) (s : State) : (deliverWidx g s).h = s.h := rfl
@[simp] theorem deliverWidx_w (g : Round → BitVec 4) (s : State) : (deliverWidx g s).w = s.w := rfl
@[simp] theorem deliverWidx_m (g : Round → BitVec 4) (s : State) : (deliverWidx g s).m = s.m := rfl
@[simp] theorem deliverWidx_dig (g : Round → BitVec 4) (s : State) : (deliverWidx g s).dig = s.dig := rfl
@[simp] theorem deliverWidx_ph (g : Round → BitVec 4) (s : State) : (deliverWidx g s).ph = s.ph := rfl
@[simp] theorem deliverWidx_blk (g : Round → BitVec 4) (s : State) : (deliverWidx g s).blk = s.blk := rfl
@[simp] theorem deliverWidx_rnd (g : Round → BitVec 4) (s : State) : (deliverWidx g s).rnd = s.rnd := rfl
@[simp] theorem deliverWidx_hcnt (g : Round → BitVec 4) (s : State) : (deliverWidx g s).hcnt = s.hcnt := rfl
@[simp] theorem deliverWidx_rsrc (g : Round → BitVec 4) (s : State) : (deliverWidx g s).rsrc = s.rsrc := rfl
@[simp] theorem deliverWidx_busy (g : Round → BitVec 4) (s : State) : (deliverWidx g s).busy = s.busy := rfl
@[simp] theorem deliverWidx_done (g : Round → BitVec 4) (s : State) : (deliverWidx g s).done = s.done := rfl
@[simp] theorem deliverWidx_hexv (g : Round → BitVec 4) (s : State) : (deliverWidx g s).hexv = s.hexv := rfl
@[simp] theorem deliverWidx_err (g : Round → BitVec 4) (s : State) : (deliverWidx g s).err = s.err := rfl
@[simp] theorem deliverWidx_ecode (g : Round → BitVec 4) (s : State) : (deliverWidx g s).ecode = s.ecode := rfl
@[simp] theorem deliverWidx_len (g : Round → BitVec 4) (s : State) : (deliverWidx g s).len = s.len := rfl
@[simp] theorem deliverWidx_hlen (g : Round → BitVec 4) (s : State) : (deliverWidx g s).hlen = s.hlen := rfl
@[simp] theorem deliverWidx_cap (g : Round → BitVec 4) (s : State) : (deliverWidx g s).cap = s.cap := rfl
@[simp] theorem deliverWidx_msg (g : Round → BitVec 4) (s : State) : (deliverWidx g s).msg = s.msg := rfl
@[simp] theorem deliverWidx_hexo (g : Round → BitVec 4) (s : State) : (deliverWidx g s).hexo = s.hexo := rfl
@[simp] theorem deliverWidx_draws (g : Round → BitVec 4) (s : State) : (deliverWidx g s).draws = s.draws := rfl
@[simp] theorem deliverWidx_rdata (g : Round → BitVec 4) (s : State) : (deliverWidx g s).rdata = s.rdata := rfl
@[simp] theorem deliverWidx_fOut (g : Round → BitVec 4) (s : State) : (deliverWidx g s).fOut = s.fOut := rfl
@[simp] theorem deliverWidx_gOut (g : Round → BitVec 4) (s : State) : (deliverWidx g s).gOut = g s.rnd := rfl
@[simp] theorem deliverWidx_inbox (g : Round → BitVec 4) (s : State) : (deliverWidx g s).inbox = s.inbox := rfl

/-! ### an accepted `START` (R182) -/

@[simp] theorem beginDigest_h (s : State) : (beginDigest s).h = iv := rfl
@[simp] theorem beginDigest_w (s : State) : (beginDigest s).w = s.w := rfl
@[simp] theorem beginDigest_m (s : State) : (beginDigest s).m = s.m := rfl
@[simp] theorem beginDigest_dig (s : State) : (beginDigest s).dig = s.dig := rfl
@[simp] theorem beginDigest_ph (s : State) : (beginDigest s).ph = .load := rfl
@[simp] theorem beginDigest_blk (s : State) : (beginDigest s).blk = 0 := rfl
@[simp] theorem beginDigest_rnd (s : State) : (beginDigest s).rnd = 0 := rfl
@[simp] theorem beginDigest_hcnt (s : State) : (beginDigest s).hcnt = s.hcnt := rfl
@[simp] theorem beginDigest_rsrc (s : State) : (beginDigest s).rsrc = s.rsrc := rfl
@[simp] theorem beginDigest_busy (s : State) : (beginDigest s).busy = true := rfl
@[simp] theorem beginDigest_done (s : State) : (beginDigest s).done = false := rfl
@[simp] theorem beginDigest_hexv (s : State) : (beginDigest s).hexv = false := rfl
@[simp] theorem beginDigest_err (s : State) : (beginDigest s).err = s.err := rfl
@[simp] theorem beginDigest_ecode (s : State) : (beginDigest s).ecode = s.ecode := rfl
@[simp] theorem beginDigest_len (s : State) : (beginDigest s).len = s.len := rfl
@[simp] theorem beginDigest_hlen (s : State) : (beginDigest s).hlen = s.hlen := rfl
@[simp] theorem beginDigest_cap (s : State) : (beginDigest s).cap = s.cap := rfl
@[simp] theorem beginDigest_msg (s : State) : (beginDigest s).msg = s.msg := rfl
@[simp] theorem beginDigest_hexo (s : State) : (beginDigest s).hexo = s.hexo := rfl
@[simp] theorem beginDigest_draws (s : State) : (beginDigest s).draws = s.draws := rfl
@[simp] theorem beginDigest_rdata (s : State) : (beginDigest s).rdata = s.rdata := rfl
@[simp] theorem beginDigest_fOut (s : State) : (beginDigest s).fOut = s.fOut := rfl
@[simp] theorem beginDigest_gOut (s : State) : (beginDigest s).gOut = s.gOut := rfl
@[simp] theorem beginDigest_inbox (s : State) : (beginDigest s).inbox = s.inbox := rfl

/-! ### an accepted `RENDER.DIG` (R213) -/

@[simp] theorem beginRenderDig_h (s : State) : (beginRenderDig s).h = s.h := rfl
@[simp] theorem beginRenderDig_w (s : State) : (beginRenderDig s).w = s.w := rfl
@[simp] theorem beginRenderDig_m (s : State) : (beginRenderDig s).m = s.m := rfl
@[simp] theorem beginRenderDig_dig (s : State) : (beginRenderDig s).dig = s.dig := rfl
@[simp] theorem beginRenderDig_ph (s : State) : (beginRenderDig s).ph = .render := rfl
@[simp] theorem beginRenderDig_blk (s : State) : (beginRenderDig s).blk = s.blk := rfl
@[simp] theorem beginRenderDig_rnd (s : State) : (beginRenderDig s).rnd = s.rnd := rfl
@[simp] theorem beginRenderDig_hcnt (s : State) : (beginRenderDig s).hcnt = 0 := rfl
@[simp] theorem beginRenderDig_rsrc (s : State) : (beginRenderDig s).rsrc = .digest := rfl
@[simp] theorem beginRenderDig_busy (s : State) : (beginRenderDig s).busy = true := rfl
@[simp] theorem beginRenderDig_done (s : State) : (beginRenderDig s).done = s.done := rfl
@[simp] theorem beginRenderDig_hexv (s : State) : (beginRenderDig s).hexv = false := rfl
@[simp] theorem beginRenderDig_err (s : State) : (beginRenderDig s).err = s.err := rfl
@[simp] theorem beginRenderDig_ecode (s : State) : (beginRenderDig s).ecode = s.ecode := rfl
@[simp] theorem beginRenderDig_len (s : State) : (beginRenderDig s).len = s.len := rfl
@[simp] theorem beginRenderDig_hlen (s : State) : (beginRenderDig s).hlen = 32 := rfl
@[simp] theorem beginRenderDig_cap (s : State) : (beginRenderDig s).cap = s.cap := rfl
@[simp] theorem beginRenderDig_msg (s : State) : (beginRenderDig s).msg = s.msg := rfl
@[simp] theorem beginRenderDig_hexo (s : State) : (beginRenderDig s).hexo = s.hexo := rfl
@[simp] theorem beginRenderDig_draws (s : State) : (beginRenderDig s).draws = s.draws := rfl
@[simp] theorem beginRenderDig_rdata (s : State) : (beginRenderDig s).rdata = s.rdata := rfl
@[simp] theorem beginRenderDig_fOut (s : State) : (beginRenderDig s).fOut = s.fOut := rfl
@[simp] theorem beginRenderDig_gOut (s : State) : (beginRenderDig s).gOut = s.gOut := rfl
@[simp] theorem beginRenderDig_inbox (s : State) : (beginRenderDig s).inbox = s.inbox := rfl

/-! ### `RESET` (R290) -/

@[simp] theorem resetBlock_h (s : State) : (resetBlock s).h = (State.afterReset s.cap s.draws).h := rfl
@[simp] theorem resetBlock_w (s : State) : (resetBlock s).w = (State.afterReset s.cap s.draws).w := rfl
@[simp] theorem resetBlock_m (s : State) : (resetBlock s).m = (State.afterReset s.cap s.draws).m := rfl
@[simp] theorem resetBlock_dig (s : State) : (resetBlock s).dig = (State.afterReset s.cap s.draws).dig := rfl
@[simp] theorem resetBlock_ph (s : State) : (resetBlock s).ph = .idle := rfl
@[simp] theorem resetBlock_blk (s : State) : (resetBlock s).blk = 0 := rfl
@[simp] theorem resetBlock_rnd (s : State) : (resetBlock s).rnd = 0 := rfl
@[simp] theorem resetBlock_hcnt (s : State) : (resetBlock s).hcnt = 0 := rfl
@[simp] theorem resetBlock_rsrc (s : State) : (resetBlock s).rsrc = .digest := rfl
@[simp] theorem resetBlock_busy (s : State) : (resetBlock s).busy = false := rfl
@[simp] theorem resetBlock_done (s : State) : (resetBlock s).done = false := rfl
@[simp] theorem resetBlock_hexv (s : State) : (resetBlock s).hexv = false := rfl
@[simp] theorem resetBlock_err (s : State) : (resetBlock s).err = false := rfl
@[simp] theorem resetBlock_ecode (s : State) : (resetBlock s).ecode = .none := rfl
@[simp] theorem resetBlock_len (s : State) : (resetBlock s).len = 0 := rfl
@[simp] theorem resetBlock_hlen (s : State) : (resetBlock s).hlen = 0 := rfl
@[simp] theorem resetBlock_cap (s : State) : (resetBlock s).cap = s.cap := rfl
@[simp] theorem resetBlock_msg (s : State) : (resetBlock s).msg = [] := rfl
@[simp] theorem resetBlock_hexo (s : State) : (resetBlock s).hexo = [] := rfl
@[simp] theorem resetBlock_draws (s : State) : (resetBlock s).draws = s.draws + 40 := rfl
@[simp] theorem resetBlock_rdata (s : State) : (resetBlock s).rdata = s.rdata := rfl
@[simp] theorem resetBlock_fOut (s : State) : (resetBlock s).fOut = s.fOut := rfl
@[simp] theorem resetBlock_gOut (s : State) : (resetBlock s).gOut = s.gOut := rfl
@[simp] theorem resetBlock_inbox (s : State) : (resetBlock s).inbox = s.inbox := rfl

end Sys2Proof.Machine
end

