-- ==== Sys2Proof/Laws/Ops.lean ====
section
/-! SUPPORT. What each shared operation can do, said once: the write gate, a host read, every host write, every host read,
the turns of an execution. -/

namespace Sys2Proof.Machine

theorem writeGate_locked {s t : State} (h : s.err = true) : writeGate s t = s := by
  simp [writeGate, h]

theorem writeGate_busy {s t : State} (he : s.err = false) (hb : s.busy = true) :
    writeGate s t = raiseRefusal .busyAccess s := by
  simp [writeGate, he, hb]

theorem writeGate_open {s t : State} (he : s.err = false) (hb : s.busy = false) : writeGate s t = t := by
  simp [writeGate, he, hb]

/-- What the write gate can do (R238). -/
theorem writeGate_cases (s t : State) :
    (s.err = true ∧ writeGate s t = s) ∨
    (s.err = false ∧ s.busy = true ∧ writeGate s t = raiseRefusal .busyAccess s) ∨
    (s.err = false ∧ s.busy = false ∧ writeGate s t = t) := by
  cases he : s.err <;> cases hb : s.busy <;> simp [writeGate, he, hb]

/-- What returning a byte can do: the value returned, and maybe one free value drawn. -/
theorem returnByte_eq (b : Option Byte) (s : State) :
    returnByte b s = { s with rdata := (returnByte b s).rdata, draws := (returnByte b s).draws } := by
  cases b <;> rfl

/-- A read of a byte that has a value. -/
@[simp] theorem returnByte_some (v : Byte) (s : State) :
    returnByte (some v) s = returnValue (v.zeroExtend 64) s := rfl

/-- A read of a byte that has none. -/
@[simp] theorem returnByte_none (s : State) : returnByte none s = returnDraw s := rfl

/-- What a host write can do: it answers the write gate's outcome, for a state its own rule gives. -/
theorem exec_hostWrite {i : Instr} (hi : isHostWrite i = true) (s : State) :
    ∃ t, exec i s = .next (writeGate s t) := by
  cases i <;> first | exact ⟨_, rfl⟩ | cases hi

/-- What a host read can do: it changes the model's `rdata` and `draws` only. -/
theorem exec_hostRead {i : Instr} (hi : isHostRead i = true) (s : State) :
    ∃ v n, exec i s = .next { s with rdata := v, draws := n } := by
  cases i
  case hrdReg a => exact ⟨_, s.draws, rfl⟩
  case hrdMsg a => exact ⟨_, _, congrArg _ (returnByte_eq _ s)⟩
  case hrdDig a => exact ⟨_, _, congrArg _ (returnByte_eq _ s)⟩
  case hrdHexo a => exact ⟨_, _, congrArg _ (returnByte_eq _ s)⟩
  all_goals cases hi

/-- A host write in a busy block changes `ERR` and `ECODE` at most (R238, R262, R263). -/
theorem exec_hostWrite_busy {i : Instr} (hi : isHostWrite i = true) {s : State} (hb : s.busy = true) :
    exec i s = .next { s with err := true, ecode := if s.err then s.ecode else .busyAccess } := by
  obtain ⟨t, ht⟩ := exec_hostWrite hi s
  rw [ht]
  cases he : s.err
  · simp [writeGate_busy he hb, raiseRefusal]
  · rw [writeGate_locked he]
    obtain ⟨⟩ := s
    cases he
    rfl

/-- A record is a host write or a host read (R91). -/
theorem decodeHT_host (r : Record) : isHostWrite (decodeHT r) = true ∨ isHostRead (decodeHT r) = true := by
  unfold decodeHT decodeFields
  split
  case h_5 =>
    left
    split
    · unfold decodeCW
      split
      · rfl
      · split
        · rfl
        · split <;> rfl
    · split <;> rfl
  all_goals first | exact Or.inl rfl | exact Or.inr rfl

/-- The next turn when the inbox has one. -/
theorem step_event {s : State} {e : Event} {rest : List Event} (h : s.inbox = e :: rest) :
    step s = takeEvent e { s with inbox := rest } := by
  simp [step, nextTurn, h]

/-- The next turn when the inbox is empty. -/
theorem step_core {s : State} (h : s.inbox = []) : step s = coreTurn s := by
  simp [step, nextTurn, h]

end Sys2Proof.Machine
end

