-- ==== Sys2Proof/Laws/Padder.lean ====
section
/-! SUPPORT. The Padder's functions: what they depend on, and when `LOADBLK` completes. -/

namespace Sys2Proof.Machine

/-- The padded message depends on the message bytes below the length only (R133). -/
theorem padByte_congr {l : Nat} {f g : Nat → Byte} (h : ∀ j, j < l → f j = g j) (j : Nat) :
    padByte l f j = padByte l g j := by
  unfold padByte
  split
  · next hj => exact h j hj
  · rfl

theorem blockWords_congr {l : Nat} {f g : Nat → Byte} (h : ∀ j, j < l → f j = g j) (k : Nat) :
    blockWords l f k = blockWords l g k := by
  have : padByte l f = padByte l g := funext fun j => padByte_congr h j
  simp [blockWords, this]

theorem hashBlocks_congr {l : Nat} {f g : Nat → Byte} (h : ∀ j, j < l → f j = g j) (k : Nat) :
    hashBlocks l f k = hashBlocks l g k := by
  induction k with
  | zero => rfl
  | succ k ih => simp [hashBlocks, ih, blockWords_congr h k]

/-- The blocks are at most `2^55 + 1` for a legal length (R131). -/
theorem nblk_le {l : Nat} (h : l < 2 ^ 61) : nblk l ≤ 2 ^ 55 + 1 := by
  unfold nblk
  omega

theorem nblk_pos (l : Nat) : 0 < nblk l := by
  unfold nblk
  omega

/-- What it means that the bytes of the present block have been written (R135). -/
theorem blockWritten_iff (s : State) :
    blockWritten s = true ↔
      ∀ k, k < 64 → 64 * s.blk.toNat + k < s.len.toNat → (msgCell s (64 * s.blk.toNat + k)).isSome = true := by
  simp only [blockWritten, List.all_eq_true, List.mem_range, Bool.or_eq_true, decide_eq_true_eq]
  constructor
  · intro h k hk hlt
    rcases h k hk with h | h
    · omega
    · exact h
  · intro h k hk
    by_cases hle : s.len.toNat ≤ 64 * s.blk.toNat + k
    · exact Or.inl hle
    · exact Or.inr (h k hk (by omega))

/-- A written cell of the message memory is what `LOADBLK` and `RSTEP` read there. -/
theorem msgCell_of_memRead {s : State} {a : Nat} {v : Byte} (ha : a < s.cap.toNat) (h : memRead s.msg a = some v) :
    msgCell s a = some v := by
  simp [msgCell, ha, h]

/-- A cell that does not exist or is not written has no value for the core. -/
theorem msgCell_eq_none {s : State} {a : Nat} (h : s.cap.toNat ≤ a ∨ memRead s.msg a = none) : msgCell s a = none := by
  unfold msgCell
  split
  · rcases h with h | h
    · omega
    · exact h
  · rfl

/-- The byte of a message that the message memory holds. -/
theorem msgByte_of_memRead {s : State} {a : Nat} {v : Byte} (ha : a < s.cap.toNat) (h : memRead s.msg a = some v) :
    msgByte s a = v := by
  simp [msgByte, msgCell_of_memRead ha h]

/-- A message that the message memory holds in block `BLK` has that block written. -/
theorem blockWritten_of_memRead {s : State} {src : List Byte} (hlen : src.length = s.len.toNat)
    (h : ∀ (j : Nat) (hj : j < src.length), 64 * s.blk.toNat ≤ j → j < 64 * s.blk.toNat + 64 →
      j < s.cap.toNat ∧ memRead s.msg j = some src[j]) : blockWritten s = true := by
  refine (blockWritten_iff s).mpr fun k hk hlt => ?_
  obtain ⟨hc, hm⟩ := h (64 * s.blk.toNat + k) (by omega) (by omega) (by omega)
  simp [msgCell_of_memRead hc hm]

/-- The words of a block depend only on the message bytes inside the block (R135). -/
theorem blockWords_congr_block {l k : Nat} {f g : Nat → Byte}
    (h : ∀ j, j < l → 64 * k ≤ j → j < 64 * k + 64 → f j = g j) : blockWords l f k = blockWords l g k := by
  have hb : ∀ j, 64 * k ≤ j → j < 64 * k + 64 → padByte l f j = padByte l g j := by
    intro j h1 h2
    unfold padByte
    split
    · next hj => exact h j hj h1 h2
    · rfl
  unfold blockWords
  congr 1
  funext t
  have ht := t.isLt
  simp only [memReadWord]
  rw [hb _ (by omega) (by omega), hb _ (by omega) (by omega), hb _ (by omega) (by omega), hb _ (by omega) (by omega)]

theorem blockExists_iff (s : State) :
    blockExists s = true ↔ s.len.toNat < 2 ^ 61 ∧ s.blk.toNat < nblk s.len.toNat := by
  simp [blockExists]

/-- When `LOADBLK` completes, and what it answers then (R135). -/
theorem execLoadblk_next {s : State} (hl : s.len.toNat < 2 ^ 61) (hb : s.blk.toNat < nblk s.len.toNat)
    (hw : blockWritten s = true) :
    execLoadblk s = .next { s with m := blockWords s.len.toNat (msgByte s) s.blk.toNat, ph := .copy } := by
  simp [execLoadblk, (blockExists_iff s).mpr ⟨hl, hb⟩, hw]

/-- What `LOADBLK` can do. -/
theorem execLoadblk_cases (s : State) :
    (blockExists s = true ∧ blockWritten s = true ∧
      execLoadblk s = .next { s with m := blockWords s.len.toNat (msgByte s) s.blk.toNat, ph := .copy }) ∨
    (blockExists s = true ∧ blockWritten s = false ∧ execLoadblk s = .fault .unwrittenRead) ∨
    (blockExists s = false ∧ execLoadblk s = .fault .padRange) := by
  cases he : blockExists s <;> cases hw : blockWritten s <;> simp [execLoadblk, he, hw]

end Sys2Proof.Machine
end

