-- ==== Sys2Proof/Laws/PerInstr.lean ====
section
/-! SUPPORT. A fact about every operation as syntax, one lemma per constructor: its encoding fits its format's length
(spec/30_encoding.md R80). -/

namespace Sys2Proof.Laws.EncodingFits

/-- The word of an operation is no longer than its format. -/
def Statement (i : Instr) : Prop := (encode i).word < 2 ^ (encode i).format.bits

theorem start : Statement .start := (htRecord 4 0 0x01).isLt
theorem renderDig : Statement .renderDig := (htRecord 4 0 0x02).isLt
theorem renderMsg : Statement .renderMsg := (htRecord 4 0 0x0A).isLt
theorem hwrRegCmdIllegal (cw : Byte) : Statement (.hwrRegCmdIllegal cw) := (htRecord 4 0 (cw.zeroExtend 64)).isLt
theorem hwrRegLen (data : DWord) : Statement (.hwrRegLen data) := (htRecord 4 2 data).isLt
theorem hwrReg (addr data : DWord) : Statement (.hwrReg addr data) := (htRecord 4 addr data).isLt
theorem hwrMsg (addr : DWord) (value : Byte) : Statement (.hwrMsg addr value) :=
  (htRecord 5 addr (value.zeroExtend 64)).isLt
theorem hwrDig (addr data : DWord) : Statement (.hwrDig addr data) := (htRecord 6 addr data).isLt
theorem hwrHexo (addr data : DWord) : Statement (.hwrHexo addr data) := (htRecord 7 addr data).isLt
theorem hrdReg (addr : DWord) : Statement (.hrdReg addr) := (htRecord 0 addr 0).isLt
theorem hrdMsg (addr : DWord) : Statement (.hrdMsg addr) := (htRecord 1 addr 0).isLt
theorem hrdDig (addr : DWord) : Statement (.hrdDig addr) := (htRecord 2 addr 0).isLt
theorem hrdHexo (addr : DWord) : Statement (.hrdHexo addr) := (htRecord 3 addr 0).isLt
theorem loadblk : Statement .loadblk := (sqRecord 1 0 0).isLt
theorem copyin : Statement .copyin := (sqRecord 2 0 0).isLt
theorem roundFF (j : BitVec 4) : Statement (.roundFF j) := (sqRecord 3 0 j).isLt
theorem roundGG (j : BitVec 4) : Statement (.roundGG j) := (sqRecord 3 1 j).isLt
theorem roundHH (j : BitVec 4) : Statement (.roundHH j) := (sqRecord 3 2 j).isLt
theorem roundII (j : BitVec 4) : Statement (.roundII j) := (sqRecord 3 3 j).isLt
theorem addback : Statement .addback := (sqRecord 4 0 0).isLt
theorem serial : Statement .serial := (sqRecord 5 0 0).isLt
theorem rstep : Statement .rstep := (sqRecord 6 0 0).isLt
theorem mixF : Statement .mixF := by unfold Statement; decide
theorem mixG : Statement .mixG := by unfold Statement; decide
theorem mixH : Statement .mixH := by unfold Statement; decide
theorem mixI : Statement .mixI := by unfold Statement; decide
theorem widx0 : Statement .widx0 := by unfold Statement; decide
theorem widx1 : Statement .widx1 := by unfold Statement; decide
theorem widx2 : Statement .widx2 := by unfold Statement; decide
theorem widx3 : Statement .widx3 := by unfold Statement; decide
theorem reset : Statement .reset := by unfold Statement; decide

end Sys2Proof.Laws.EncodingFits
end

