-- ==== Sys2Proof/Laws/Turns.lean ====
section
/-! SUPPORT. The core's turn by the phase (spec/43_digest_engine.md R183). -/

namespace Sys2Proof.Machine

/-- The operation the sequencer word selects, by the phase and the round index (spec/30_encoding.md R83). -/
theorem decodeSQ_sqWord (s : State) :
    decodeSQ (sqWord s) =
      match s.ph with
      | .idle => .error .idle
      | .load => .ok .loadblk
      | .copy => .ok .copyin
      | .round => .ok (decodeRound (s.rnd.extractLsb' 4 2) (s.rnd.extractLsb' 0 4))
      | .addback => .ok .addback
      | .serial => .ok .serial
      | .render => .ok .rstep := by
  have key : ∀ (p : BitVec 3) (r : Round),
      (((p ++ r).cast (by decide) : BitVec 9).extractLsb' 6 3) = p ∧
      (((p ++ r).cast (by decide) : BitVec 9).extractLsb' 4 2) = r.extractLsb' 4 2 ∧
      (((p ++ r).cast (by decide) : BitVec 9).extractLsb' 0 4) = r.extractLsb' 0 4 := by decide +kernel
  obtain ⟨k1, k2, k3⟩ := key (phaseCode s.ph) s.rnd
  unfold decodeSQ sqWord
  rw [k1, k2, k3]
  cases s.ph <;> rfl

/-- The round index of the operation the word of a round selects is `RND`. -/
theorem roundIndex_fields (r : Round) : roundIndex (r.extractLsb' 4 2) (r.extractLsb' 0 4) = r := by
  revert r
  decide +kernel

/-- The core's turn, by the phase (R183). -/
theorem coreTurn_eq (s : State) :
    coreTurn s =
      match s.ph with
      | .idle => .next s
      | .load => execLoadblk s
      | .copy => execCopyin s
      | .round => exec (decodeRound (s.rnd.extractLsb' 4 2) (s.rnd.extractLsb' 0 4)) s
      | .addback => execAddback s
      | .serial => execSerial s
      | .render => execRstep s := by
  unfold coreTurn
  rw [decodeSQ_sqWord]
  cases s.ph <;> rfl

/-- A round of the core, whatever its quartile, is the round equation and the advance (R160, R161). -/
theorem coreTurn_round {s : State} (h : s.ph = .round) :
    coreTurn s = .next (advanceRound s.rnd { s with w := roundEquation s.m s.rnd s.w }) := by
  have hrun : coreTurn s = exec (decodeRound (s.rnd.extractLsb' 4 2) (s.rnd.extractLsb' 0 4)) s := by
    simp [coreTurn_eq, h]
  have hq : (s.rnd.extractLsb' 4 2).toNat = s.rnd.toNat / 16 := by
    have : ∀ r : Round, (r.extractLsb' 4 2).toNat = r.toNat / 16 := by decide +kernel
    exact this _
  have hi := roundIndex_fields s.rnd
  have hcases : s.rnd.toNat / 16 = 0 ∨ s.rnd.toNat / 16 = 1 ∨ s.rnd.toNat / 16 = 2 ∨ s.rnd.toNat / 16 = 3 := by
    have := s.rnd.isLt
    omega
  rcases hcases with hk | hk | hk | hk
  · have hq0 : s.rnd.extractLsb' 4 2 = 0 := BitVec.eq_of_toNat_eq (by rw [hq, hk]; rfl)
    rw [hq0] at hi hrun
    rw [hrun]
    change Host.Outcome.next (runRound mixF widx0 (roundIndex 0 _) s) = _
    rw [hi]
    simp [runRound, roundEquation, mix, widx, hk]
  · have hq0 : s.rnd.extractLsb' 4 2 = 1 := BitVec.eq_of_toNat_eq (by rw [hq, hk]; rfl)
    rw [hq0] at hi hrun
    rw [hrun]
    change Host.Outcome.next (runRound mixG widx1 (roundIndex 1 _) s) = _
    rw [hi]
    simp [runRound, roundEquation, mix, widx, hk]
  · have hq0 : s.rnd.extractLsb' 4 2 = 2 := BitVec.eq_of_toNat_eq (by rw [hq, hk]; rfl)
    rw [hq0] at hi hrun
    rw [hrun]
    change Host.Outcome.next (runRound mixH widx2 (roundIndex 2 _) s) = _
    rw [hi]
    simp [runRound, roundEquation, mix, widx, hk]
  · have hq0 : s.rnd.extractLsb' 4 2 = 3 := BitVec.eq_of_toNat_eq (by rw [hq, hk]; rfl)
    rw [hq0] at hi hrun
    rw [hrun]
    change Host.Outcome.next (runRound mixI widx3 (roundIndex 3 _) s) = _
    rw [hi]
    simp [runRound, roundEquation, mix, widx, hk]

end Sys2Proof.Machine
end

