-- ==== Sys2Proof/Laws/Steps.lean ====
section
/-! SUPPORT. What a step can do, said once: the host writes, the steps of the core, the turns of the host. -/

namespace Sys2Proof.Machine

/-- The five effects of an accepted host write (R182, R213, R214, R235, R236): `u` is the state `i` gives in `s`. -/
def writeAccepted (i : Instr) (s u : State) : Prop :=
  (i = .start ∧ s.len.toNat < 2 ^ 61 ∧ s.len.toNat ≤ s.cap.toNat ∧ u = beginDigest s) ∨
  (i = .renderDig ∧ s.done = true ∧ u = beginRenderDig s) ∨
  (i = .renderMsg ∧ s.len.toNat ≤ s.cap.toNat ∧ u = beginRenderMsg s) ∨
  (∃ d, i = .hwrRegLen d ∧ u = { s with len := d }) ∨
  (∃ a v, i = .hwrMsg a v ∧ a.toNat < s.cap.toNat ∧ u = { s with msg := memWrite s.msg a.toNat v })

/-- What a host write can do: it is dropped, it is refused, or in an open block it is accepted. -/
theorem exec_hostWrite_cases {i : Instr} (hi : isHostWrite i = true) (s : State) :
    ∃ t, exec i s = .next t ∧
      ((s.err = true ∧ t = s) ∨
        (s.err = false ∧ ∃ c, c ≠ Cause.none ∧ t = raiseRefusal c s) ∨
        (s.err = false ∧ s.busy = false ∧ writeAccepted i s t)) := by
  have gate : ∀ u : State, exec i s = .next (writeGate s u) →
      ((∃ c, c ≠ Cause.none ∧ u = raiseRefusal c s) ∨ writeAccepted i s u) →
      ∃ t, exec i s = .next t ∧
        ((s.err = true ∧ t = s) ∨
          (s.err = false ∧ ∃ c, c ≠ Cause.none ∧ t = raiseRefusal c s) ∨
          (s.err = false ∧ s.busy = false ∧ writeAccepted i s t)) := by
    intro u hu hcases
    refine ⟨_, hu, ?_⟩
    rcases writeGate_cases s u with ⟨he, e⟩ | ⟨he, _, e⟩ | ⟨he, hb, e⟩ <;> rw [e]
    · exact Or.inl ⟨he, rfl⟩
    · exact Or.inr (Or.inl ⟨he, _, by decide, rfl⟩)
    · rcases hcases with h | h
      · exact Or.inr (Or.inl ⟨he, h⟩)
      · exact Or.inr (Or.inr ⟨he, hb, h⟩)
  cases i
  case start =>
    refine gate _ rfl ?_
    split
    · exact Or.inl ⟨_, by decide, rfl⟩
    · split
      · exact Or.inl ⟨_, by decide, rfl⟩
      · exact Or.inr (Or.inl ⟨rfl, by omega, by omega, rfl⟩)
  case renderDig =>
    refine gate _ rfl ?_
    split
    · next h => exact Or.inr (Or.inr (Or.inl ⟨rfl, h, rfl⟩))
    · exact Or.inl ⟨_, by decide, rfl⟩
  case renderMsg =>
    refine gate _ rfl ?_
    split
    · exact Or.inl ⟨_, by decide, rfl⟩
    · exact Or.inr (Or.inr (Or.inr (Or.inl ⟨rfl, by omega, rfl⟩)))
  case hwrRegLen d => exact gate _ rfl (Or.inr (Or.inr (Or.inr (Or.inr (Or.inl ⟨d, rfl, rfl⟩)))))
  case hwrMsg a v =>
    refine gate _ rfl ?_
    split
    · next h => exact Or.inr (Or.inr (Or.inr (Or.inr (Or.inr ⟨a, v, rfl, h, rfl⟩))))
    · exact Or.inl ⟨_, by decide, rfl⟩
  case hwrRegCmdIllegal => exact gate _ rfl (Or.inl ⟨_, by decide, rfl⟩)
  case hwrReg => exact gate _ rfl (Or.inl ⟨_, by decide, rfl⟩)
  case hwrDig => exact gate _ rfl (Or.inl ⟨_, by decide, rfl⟩)
  case hwrHexo => exact gate _ rfl (Or.inl ⟨_, by decide, rfl⟩)
  all_goals cases hi

/-- What `RSTEP` can do (R215, R274). -/
theorem execRstep_cases (s : State) :
    (∃ v, rstepSource s = .ok v ∧ hexCellsExist s s.hcnt.toNat = true ∧ execRstep s = .next (renderByte v s)) ∨
    (∃ v, rstepSource s = .ok v ∧ hexCellsExist s s.hcnt.toNat = false ∧ execRstep s = .fault .hexoRange) ∨
    (∃ f, rstepSource s = .error f ∧ execRstep s = .fault f) := by
  unfold execRstep
  cases hs : rstepSource s with
  | error f => exact Or.inr (Or.inr ⟨f, rfl, rfl⟩)
  | ok v =>
    cases hc : hexCellsExist s s.hcnt.toNat
    · exact Or.inr (Or.inl ⟨v, rfl, rfl, by simp⟩)
    · exact Or.inl ⟨v, rfl, rfl, by simp⟩

/-- What a render step writes (R215): two cells and the index, and at the last byte the end of the render. -/
theorem renderByte_cases (v : Byte) (s : State) :
    (2 * (s.hcnt.toNat + 1) = s.hlen.toNat ∧ renderByte v s = { s with
      hexo := memWrite (memWrite s.hexo (2 * s.hcnt.toNat) (hexHigh v)) (2 * s.hcnt.toNat + 1) (hexLow v)
      hcnt := s.hcnt + 1, hexv := true, busy := false, ph := .idle }) ∨
    (2 * (s.hcnt.toNat + 1) ≠ s.hlen.toNat ∧ renderByte v s = { s with
      hexo := memWrite (memWrite s.hexo (2 * s.hcnt.toNat) (hexHigh v)) (2 * s.hcnt.toNat + 1) (hexLow v)
      hcnt := s.hcnt + 1 }) := by
  by_cases h : 2 * (s.hcnt.toNat + 1) = s.hlen.toNat
  · exact Or.inl ⟨h, by simp [renderByte, h]⟩
  · exact Or.inr ⟨h, by simp [renderByte, h]⟩

/-- The advance of the round index (R161): the last round leaves the phase, the others count on. -/
theorem advanceRound_cases (i : Round) (s : State) :
    (i = 63 ∧ advanceRound i s = { s with ph := .addback, rnd := 0 }) ∨
    (i ≠ 63 ∧ advanceRound i s = { s with rnd := i + 1 }) := by
  by_cases h : i = 63
  · exact Or.inl ⟨h, if_pos h⟩
  · exact Or.inr ⟨h, if_neg h⟩

/-- What a turn can be (R69): a turn of the core, a host write, `RESET`, or a turn that changes the model's own fields
at most (a host read, a selector, a reset input that is not asserted). -/
theorem takeEvent_cases (e : Event) (s : State) :
    (e = .core ∧ takeEvent e s = coreTurn s) ∨
    (∃ r, e = .ht r ∧ isHostWrite (decodeHT r) = true ∧ takeEvent e s = exec (decodeHT r) s) ∨
    (e = .sig 1 ∧ takeEvent e s = .next (resetBlock s)) ∨
    (e ≠ .core ∧ notReset e = true ∧ ∃ v n f g, takeEvent e s =
      .next { s with rdata := v, draws := n, fOut := f, gOut := g }) := by
  cases e with
  | core => exact Or.inl ⟨rfl, rfl⟩
  | ht r =>
    rcases decodeHT_host r with h | h
    · exact Or.inr (Or.inl ⟨r, rfl, h, rfl⟩)
    · obtain ⟨v, n, hn⟩ := exec_hostRead h s
      exact Or.inr (Or.inr (Or.inr ⟨by simp, rfl, v, n, s.fOut, s.gOut, hn⟩))
  | sig r =>
    by_cases hr : r = 1#1
    · subst hr
      exact Or.inr (Or.inr (Or.inl ⟨rfl, rfl⟩))
    · have : takeEvent (.sig r) s = .next s := by simp [takeEvent, decodeSIG, hr]
      exact Or.inr (Or.inr (Or.inr ⟨by simp, by simp [notReset, hr], s.rdata, s.draws, s.fOut, s.gOut, this⟩))
  | mix q =>
    refine Or.inr (Or.inr (Or.inr ⟨by simp, rfl, ?_⟩))
    change ∃ v n f g, exec (decodeMix q) s = _
    unfold decodeMix
    split <;> exact ⟨s.rdata, s.draws, _, s.gOut, rfl⟩
  | widx q =>
    refine Or.inr (Or.inr (Or.inr ⟨by simp, rfl, ?_⟩))
    change ∃ v n f g, exec (decodeWidx q) s = _
    unfold decodeWidx
    split <;> exact ⟨s.rdata, s.draws, s.fOut, _, rfl⟩

/-- A run of `k + 1` steps whose first step completes. -/
theorem run_succ {s t : State} (k : Nat) (h : step s = .next t) :
    Sys2Proof.core.run (k + 1) s = Sys2Proof.core.run k t := by
  have h' : Sys2Proof.core.step s = .next t := h
  simp only [Host.Core.run, h']

/-- A run in two parts. -/
theorem run_add (a b : Nat) {s t : State} (h : Sys2Proof.core.run a s = .next t) :
    Sys2Proof.core.run (a + b) s = Sys2Proof.core.run b t := by
  induction a generalizing s with
  | zero => cases h; simp
  | succ a ih =>
    rw [Nat.add_right_comm]
    simp only [Host.Core.run] at h ⊢
    split at h
    · exact ih h
    · cases h
    · cases h

end Sys2Proof.Machine
end

