-- ==== Sys2Proof/Tests/Slice0.lean ====
section
/-! SUPPORT. Tests: every expected value comes from the tables of spec/95_test_vectors.md or from the encodings of
spec/30_encoding.md, and at the end a state and operands that meet the hypotheses of each statement. -/

namespace Sys2Proof.Tests

open Sys2Proof.Machine

/-- The block after `RESET` with `MSG_CAP = 256`, as spec/95_test_vectors.md assumes. -/
def base : State := State.afterReset 256 0

/-- The message "abc" written and its length set. -/
def abc : State := { base with len := 3, msg := [(0, 0x61), (1, 0x62), (2, 0x63)] }

/-- The digest of the empty message is done. -/
def emptyDone : State := { base with
  dig := #v[0xd4, 0x1d, 0x8c, 0xd9, 0x8f, 0x00, 0xb2, 0x04, 0xe9, 0x80, 0x09, 0x98, 0xec, 0xf8, 0x42, 0x7e]
  done := true }

/-- A view of the next state; nothing if the machine stopped. -/
def after {α : Type} (r : Result) (view : State → α) : Option α :=
  match r with
  | .next t => some (view t)
  | .fault _ => none
  | .refused _ => none

/-- `STATUS` and `ECODE` as the host reads them. -/
def report (s : State) : Byte × Byte := (statusByte s, causeCode s.ecode)

/-! ### Well-formed operations -/

theorem test_illformed_command : WellFormed (.hwrRegCmdIllegal 0x01) = false ∧
    WellFormed (.hwrRegCmdIllegal 0x02) = false ∧ WellFormed (.hwrRegCmdIllegal 0x0A) = false := by decide

theorem test_illformed_register : WellFormed (.hwrReg 0 0) = false ∧ WellFormed (.hwrReg 2 0) = false := by decide

theorem test_wellformed : WellFormed (.hwrRegCmdIllegal 0x09) = true ∧ WellFormed (.hwrReg 1 0) = true := by decide

/-! ### Words written out from the encodings (R81 to R84) -/

/-- `hdr` = 100 (a write of `REG`), `addr` = 0, the command word in `data[7:0]` (R81, R82). -/
theorem test_decode_commands :
    decode .ht 0x400000000000000000000000000000001 = .ok .start ∧
    decode .ht 0x400000000000000000000000000000002 = .ok .renderDig ∧
    decode .ht 0x40000000000000000000000000000000a = .ok .renderMsg ∧
    decode .ht 0x400000000000000000000000000000081 = .ok (.hwrRegCmdIllegal 0x81) := by decide +kernel

/-- `WCMD 0x101` is `START` (case E10). -/
theorem test_decode_ignored_bits : decode .ht 0x400000000000000000000000000000101 = .ok .start := by decide +kernel

/-- The other writes: `hdr` = 1ss, `addr` in bits 127 to 64, `data` in bits 63 to 0 (R81). -/
theorem test_decode_writes :
    decode .ht 0x400000000000000022000000000000000 = .ok (.hwrRegLen 0x2000000000000000) ∧
    decode .ht 0x400000000000000010000000000000000 = .ok (.hwrReg 1 0) ∧
    decode .ht 0x50000000000000100000000000000ff61 = .ok (.hwrMsg 0x100 0x61) ∧
    decode .ht 0x600000000000000000000000000000000 = .ok (.hwrDig 0 0) ∧
    decode .ht 0x700000000000000050000000000000006 = .ok (.hwrHexo 5 6) := by decide +kernel

/-- The reads: `hdr` = 0ss, the data bits ignored (R81, R90). -/
theorem test_decode_reads :
    decode .ht 0x000000000000000010000000000000000 = .ok (.hrdReg 1) ∧
    decode .ht 0x1000000000000000f0000000000000000 = .ok (.hrdMsg 15) ∧
    decode .ht 0x2ffffffffffffffff0000000000000007 = .ok (.hrdDig 0xffffffffffffffff) ∧
    decode .ht 0x3000000000000001f0000000000000000 = .ok (.hrdHexo 31) := by decide +kernel

/-- The sequencer words of the trace of the empty message (spec/95_test_vectors.md, section 5). -/
theorem test_decode_sequencer :
    decode .sq 0b001000000 = .ok .loadblk ∧
    decode .sq 0b010000000 = .ok .copyin ∧
    decode .sq 0b011000011 = .ok (.roundFF 3) ∧
    decode .sq 0b011010100 = .ok (.roundGG 4) ∧
    decode .sq 0b011101111 = .ok (.roundHH 15) ∧
    decode .sq 0b011111111 = .ok (.roundII 15) ∧
    decode .sq 0b100000000 = .ok .addback ∧
    decode .sq 0b101000000 = .ok .serial ∧
    decode .sq 0b110000000 = .ok .rstep := by decide +kernel

/-- The words that are no operation (R83, R93). -/
theorem test_decode_rejects :
    decode .sq 0b000000000 = .error .idle ∧ decode .sq 0b111000000 = .error .unreachablePhase ∧
    decode .sig 0 = .error .notAsserted ∧ decode .qsMix 4 = .error .tooWide := by decide +kernel

/-- The quartile selector (R84). -/
theorem test_decode_quartile :
    decode .qsMix 0b00 = .ok .mixF ∧ decode .qsMix 0b01 = .ok .mixG ∧
    decode .qsMix 0b10 = .ok .mixH ∧ decode .qsMix 0b11 = .ok .mixI ∧
    decode .qsWidx 0b00 = .ok .widx0 ∧ decode .qsWidx 0b01 = .ok .widx1 ∧
    decode .qsWidx 0b10 = .ok .widx2 ∧ decode .qsWidx 0b11 = .ok .widx3 ∧
    decode .sig 1 = .ok .reset := by decide +kernel

/-- The words of the table, in whole bytes. -/
theorem test_decode_table :
    decodeTableWord 136 0x400000000000000000000000000000001 = some .start ∧
    decodeTableWord 16 0b101000000 = some .serial ∧
    decodeTableWord 8 0b11 = some .mixI ∧ decodeTableWord 8 1 = some .reset := by decide +kernel

/-! ### Primitives (spec/95_test_vectors.md, section 2) -/

theorem test_add32 : add32 0xefcdab89 0x14e45506 = 0x04b2008f ∧ add32 0x12345678 0xedcba988 = 0 := by decide

theorem test_rotl : rotl 0x12345678 7 = 0x1a2b3c09 ∧ rotl 0x80000000 1 = 1 ∧ rotl 0x0000ffff 20 = 0xfff0000f := by
  decide

/-- The truth tables, one in each byte. -/
theorem test_mix :
    mixF 0xf0f0f0f0 0xcccccccc 0xaaaaaaaa = 0xcacacaca ∧ mixG 0xf0f0f0f0 0xcccccccc 0xaaaaaaaa = 0xe4e4e4e4 ∧
    mixH 0xf0f0f0f0 0xcccccccc 0xaaaaaaaa = 0x96969696 ∧ mixI 0xf0f0f0f0 0xcccccccc 0xaaaaaaaa = 0x39393939 := by
  decide

/-- The first and the second round of each quartile, and the last of all (section 2.5). -/
theorem test_widx :
    [(0 : Round), 1, 16, 17, 32, 33, 48, 49, 63].map widx = [0, 1, 1, 6, 5, 8, 0, 7, 9] := by decide

theorem test_le32 : le32 0x61 0x62 0x63 0x80 = 0x80636261 := by decide

/-- Section 3.1. -/
theorem test_plen : [0, 55, 56, 64, 119, 120].map plen = [64, 64, 128, 128, 128, 192] ∧
    [0, 55, 56, 64].map zfill = [55, 0, 63, 55] ∧ nblk (2 ^ 61 - 1) = 2 ^ 55 + 1 := by decide

/-- Section 3.3. -/
theorem test_padbyte :
    [(3, 2), (3, 3), (3, 56), (55, 55), (55, 57), (56, 119), (56, 120), (64, 121)].map
      (fun p : Nat × Nat => padByte p.1 (fun j => if j = 2 then 0x63 else 0x61) p.2) =
    [0x63, 0x80, 0x18, 0x80, 0x01, 0x00, 0xc0, 0x02] := by decide

/-! ### The steps of the core -/

/-- Section 3.4, "abc". -/
theorem test_loadblk :
    after (exec .loadblk { abc with ph := .load }) (fun t => (t.m[0], t.m[1], t.m[14], t.ph)) =
      some (0x80636261, 0, 0x00000018, .copy) := by decide +kernel

/-- Case E24. -/
theorem test_loadblk_unwritten :
    exec .loadblk { base with ph := .load, len := 2, msg := [(0, 0x61)] } = .fault .unwrittenRead := by rfl

theorem test_copyin : after (exec .copyin { base with h := iv, ph := .copy, rnd := 5 }) (fun t => (t.w, t.rnd, t.ph)) =
    some (iv, 0, .round) := by decide

/-- The operands of section 6.2. -/
def distinct : State := { base with
  w := ⟨0x01234567, 0x89abcdef, 0xfedcba98, 0x76543210⟩
  m := Vector.ofFn fun t : Fin 16 => BitVec.ofNat 32 (0x11111111 * t.val)
  ph := .round }

/-- `i = 5` of section 6.2. -/
theorem test_roundFF : after (exec (.roundFF 5) { distinct with rnd := 5 }) (fun t => (t.w, t.rnd, t.ph)) =
    some (⟨0x76543210, 0x5b63b7bc, 0x89abcdef, 0xfedcba98⟩, 6, .round) := by decide +kernel

/-- `i = 21`. -/
theorem test_roundGG : after (exec (.roundGG 5) { distinct with rnd := 21 }) (fun t => (t.w, t.rnd, t.ph)) =
    some (⟨0x76543210, 0xbec5a65c, 0x89abcdef, 0xfedcba98⟩, 22, .round) := by decide +kernel

/-- `i = 37`. -/
theorem test_roundHH : after (exec (.roundHH 5) { distinct with rnd := 37 }) (fun t => (t.w, t.rnd, t.ph)) =
    some (⟨0x76543210, 0xd6a1aa82, 0x89abcdef, 0xfedcba98⟩, 38, .round) := by decide +kernel

/-- `i = 63`: the last round leaves the phase. -/
theorem test_roundII : after (exec (.roundII 15) { distinct with rnd := 63 }) (fun t => (t.w, t.rnd, t.ph)) =
    some (⟨0x76543210, 0xcacb8554, 0x89abcdef, 0xfedcba98⟩, 0, .addback) := by decide +kernel

/-- Step 67 of the trace of section 5. -/
theorem test_addback :
    after (exec .addback { base with h := iv, w := ⟨0x7246fad3, 0x14e45506, 0xff4ea3eb, 0x6e10a476⟩, ph := .addback })
      (fun t => (t.h, t.blk, t.ph)) =
    some (⟨0xd98c1dd4, 0x04b2008f, 0x980980e9, 0x7e42f8ec⟩, 1, .serial) := by decide +kernel

/-- Block 0 of two. -/
theorem test_addback_more : after (exec .addback { base with len := 56 }) (fun t => (t.blk, t.ph)) = some (1, .load) := by
  decide +kernel

/-- Section 7.2, the fourth row. -/
theorem test_serial :
    after (exec .serial { base with h := ⟨0x01020304, 0x05060708, 0x090a0b0c, 0x0d0e0f10⟩, busy := true, ph := .serial })
      (fun t => (t.dig.toList, statusByte t, t.ph)) =
    some ([0x04, 0x03, 0x02, 0x01, 0x08, 0x07, 0x06, 0x05, 0x0c, 0x0b, 0x0a, 0x09, 0x10, 0x0f, 0x0e, 0x0d], 2, .idle) := by
  decide +kernel

/-- Section 6.3, the block of the empty message and the block of sixteen ones. -/
theorem test_compress_empty : compress iv (Vector.ofFn fun t : Fin 16 => if t.val = 0 then 0x80 else 0) =
    ⟨0xd98c1dd4, 0x04b2008f, 0x980980e9, 0x7e42f8ec⟩ := by decide +kernel

theorem test_compress_ones :
    compress ⟨0xffffffff, 0xffffffff, 0xffffffff, 0xffffffff⟩ (Vector.replicate 16 0xffffffff) =
    ⟨0x6cba9129, 0x29ffd12a, 0x8b9bb7d3, 0xa9a0a3c1⟩ := by decide +kernel

/-- Section 1.1, S2: the document's digest of "abc". -/
theorem test_digest_abc : (digest 3 (msgByte abc)).toList =
    [0x90, 0x01, 0x50, 0x98, 0x3c, 0xd2, 0x4f, 0xb0, 0xd6, 0x96, 0x3f, 0x7d, 0x28, 0xe1, 0x7f, 0x72] := by
  decide +kernel

/-- R151: the first and the last round constant. -/
theorem test_round_constants : kRom 0 = 0xd76aa478 ∧ kRom 63 = 0xeb86d391 := by decide

/-- Section 7.1, "a" x 56: two blocks. -/
theorem test_digest_two_blocks : (digest 56 fun _ => 0x61).toList =
    [0x3b, 0x0c, 0x8a, 0xc7, 0x03, 0xf8, 0x28, 0xb0, 0x4c, 0x6c, 0x19, 0x70, 0x06, 0xd1, 0x72, 0x18] := by
  decide +kernel

/-! ### The renderer (section 8) -/

theorem test_nibchr : [(0 : BitVec 4), 9, 10, 15].map nibChr = [0x30, 0x39, 0x61, 0x66] := by decide

theorem test_hexstr : hexStr [0xde, 0xad, 0xbe, 0xef] = [0x64, 0x65, 0x61, 0x64, 0x62, 0x65, 0x65, 0x66] := by decide

/-- The third `RSTEP` of section 8.3. -/
theorem test_rstep :
    after (exec .rstep { base with
      ph := .render, busy := true, rsrc := .message, hcnt := 2, hlen := 14, len := 7, msg := [(2, 0x0a)] })
      (fun t => (t.hexo, t.hcnt, statusByte t)) = some ([(4, 0x30), (5, 0x61)], 3, 1) := by decide +kernel

/-- The last `RSTEP` of a digest: byte 15 is `7e`. -/
theorem test_rstep_last :
    after (exec .rstep { emptyDone with ph := .render, busy := true, hcnt := 15, hlen := 32 })
      (fun t => (t.hexo, statusByte t, t.ph)) = some ([(30, 0x37), (31, 0x65)], 6, .idle) := by decide +kernel

/-! ### The host port and the refusals (section 9) -/

/-- Case E10 and R182. -/
theorem test_start : after (exec .start { emptyDone with hexv := true }) (fun t => (t.h, report t, t.ph)) =
    some (iv, (1, 0), .load) := by decide

/-- Cases E1, E2, E3. -/
theorem test_start_refused :
    [(2 : Nat) ^ 61, 2 ^ 61 - 1, 257].map
      (fun l => after (exec .start { base with len := BitVec.ofNat 64 l }) fun t => (report t, t.ph)) =
    [some ((8, 1), .idle), some ((8, 2), .idle), some ((8, 2), .idle)] := by decide

/-- Case E11. -/
theorem test_renderDig_refused : after (exec .renderDig base) report = some (8, 5) := by decide

theorem test_renderDig : after (exec .renderDig emptyDone) (fun t => (report t, t.ph, t.hlen, t.rsrc)) =
    some ((3, 0), .render, 32, .digest) := by decide

/-- Case E23. -/
theorem test_renderMsg_empty : after (exec .renderMsg base) (fun t => (report t, t.ph, t.hlen)) =
    some ((4, 0), .idle, 0) := by decide

/-- Case E22. -/
theorem test_renderMsg : after (exec .renderMsg { abc with done := true }) (fun t => (report t, t.ph, t.hlen, t.rsrc)) =
    some ((3, 0), .render, 6, .message) := by decide

/-- Case E9. -/
theorem test_illegal_command : after (exec (.hwrRegCmdIllegal 0x11) base) report = some (8, 4) := by decide

/-- Case E7: the write of `LEN` while busy. -/
theorem test_hwrRegLen : after (exec (.hwrRegLen 5) { abc with busy := true, ph := .copy }) (fun t => (report t, t.len)) =
    some ((9, 3), 3) := by decide

theorem test_hwrRegLen_accepted : after (exec (.hwrRegLen 0xffffffffffffffff) base) (fun t => (report t, t.len)) =
    some ((0, 0), 0xffffffffffffffff) := by decide

/-- Case E12. -/
theorem test_hwrReg : after (exec (.hwrReg 1 0) base) report = some (8, 6) := by decide

/-- Case E14. -/
theorem test_hwrMsg : after (exec (.hwrMsg 255 0x61) base) (fun t => (report t, t.msg)) =
    some ((0, 0), [(255, 0x61)]) := by decide

theorem test_hwrMsg_range : after (exec (.hwrMsg 256 0x61) base) (fun t => (report t, t.msg)) =
    some ((8, 6), []) := by decide

/-- Case E15. -/
theorem test_hwrDig : after (exec (.hwrDig 0 0) base) report = some (8, 6) := by decide

theorem test_hwrHexo : after (exec (.hwrHexo 0 0) base) report = some (8, 6) := by decide

/-- Case E16: the lock. -/
theorem test_lock : after (exec (.hwrRegLen 7) { base with err := true, ecode := .illegalCmd }) (fun t => (report t, t.len)) =
    some ((8, 4), 0) := by decide

/-- Cases E0 and E26. -/
theorem test_hrdReg : [(5 : DWord), 0, 6, 0xffffffffffffffff].map (fun a => after (exec (.hrdReg a) base) State.rdata) =
    [some 256, some 0, some 0, some 0] := by decide

/-- `STATUS` of case E5. -/
theorem test_hrdReg_status :
    after (exec (.hrdReg 1) { base with busy := true, err := true }) State.rdata = some 9 := by decide

theorem test_hrdMsg : after (exec (.hrdMsg 1) abc) State.rdata = some 0x62 := by decide

/-- Case E25: a free value, one more drawn each time. -/
theorem test_hrdMsg_invalid : after (exec (.hrdMsg 0) base) (fun t => (report t, t.draws)) = some ((0, 0), 41) := by decide

theorem test_hrdDig : after (exec (.hrdDig 15) emptyDone) State.rdata = some 0x7e := by decide

theorem test_hrdDig_invalid : after (exec (.hrdDig 16) emptyDone) State.draws = some 41 := by decide

/-- Case E27. -/
theorem test_hrdHexo :
    after (exec (.hrdHexo 31) { base with hexv := true, hlen := 32, hexo := [(31, 0x65)] }) State.rdata = some 0x65 := by
  decide

theorem test_hrdHexo_invalid :
    after (exec (.hrdHexo 32) { base with hexv := true, hlen := 32, hexo := [(32, 0x65)] }) State.draws = some 41 := by
  decide

/-- Cases E17 and E18. -/
theorem test_reset :
    after (exec .reset { emptyDone with busy := true, ph := .round, err := true, ecode := .badWrite, msg := [(0, 1)] })
      (fun t => (report t, t.ph, t.msg, t.cap)) = some ((0, 0), .idle, [], 256) := by decide

/-! ### The selectors evaluated as rows (log 7), on the initial B, C, D (section 2.4) and on `RND = 17` -/

theorem test_mix_rows :
    [Instr.mixF, .mixG, .mixH, .mixI].map (fun i => after (exec i { base with w := iv }) State.fOut) =
    [some 0x98badcfe, some 0x88888888, some 0x67452301, some 0x77777777] := by decide

theorem test_widx_rows :
    [Instr.widx0, .widx1, .widx2, .widx3].map (fun i => after (exec i { base with rnd := 17 }) State.gOut) =
    [some 1, some 6, some 8, some 7] := by decide

/-! ### Steps -/

/-- A transaction placed is the next step. -/
theorem test_step_host :
    after (step (base.withFetchWord 136 0x400000000000000020000000000000003)) (fun t => (t.len, t.inbox)) =
    some (3, []) := by decide +kernel

/-- A sequencer word placed is the next step: row `i = 16` of section 6.2. -/
theorem test_step_core :
    after (step (distinct.withFetchWord 16 0b011010000)) (fun t => (t.w, t.rnd, t.inbox)) =
    some (⟨0x76543210, 0xa50c5a41, 0x89abcdef, 0xfedcba98⟩, 17, []) := by decide +kernel

/-- An idle block stays as it is. -/
theorem test_step_idle : after (step base) (fun t => (report t, t.ph, t.draws)) = some ((0, 0), .idle, 40) := by decide

/-! ### A state and operands for the hypotheses of each statement -/

/-- `DecodeInvertsEncode`: the two rows with a condition. -/
theorem test_witness_decode : WellFormed (.hwrReg 3 9) = true ∧ WellFormed (.hwrRegCmdIllegal 0xff) = true := by decide

/-- `SequencerWordSelects`: each phase, and in `ROUND` the first and the last round of each quartile. -/
theorem test_witness_sequencer :
    [Phase.idle, .load, .copy, .round, .addback, .serial, .render].map (fun p => ({ base with ph := p }).ph) =
      [.idle, .load, .copy, .round, .addback, .serial, .render] ∧
    ((0 : Round).toNat = (0 : BitVec 4).toNat ∧ (15 : Round).toNat = (15 : BitVec 4).toNat) ∧
    ((16 : Round).toNat = 16 + (0 : BitVec 4).toNat ∧ (31 : Round).toNat = 16 + (15 : BitVec 4).toNat) ∧
    ((32 : Round).toNat = 32 + (0 : BitVec 4).toNat ∧ (47 : Round).toNat = 32 + (15 : BitVec 4).toNat) ∧
    ((48 : Round).toNat = 48 + (0 : BitVec 4).toNat ∧ (63 : Round).toNat = 48 + (15 : BitVec 4).toNat) := by decide

/-- `StepRunsTheNextTurn`: each kind of turn, and a turn of the core in each situation. -/
theorem test_witness_turns :
    ({ base with inbox := [.ht 0, .core] }).inbox = .ht 0 :: [.core] ∧
    ({ base with inbox := [.sig 1] }).inbox = .sig 1 :: [] ∧ ({ base with inbox := [.sig 0] }).inbox = .sig 0 :: [] ∧
    ({ base with inbox := [.mix 3] }).inbox = .mix 3 :: [] ∧ ({ base with inbox := [.widx 3] }).inbox = .widx 3 :: [] ∧
    (({ base with ph := .load, inbox := [.core] }).inbox = .core :: [] ∧
      decodeSQ (sqWord { base with ph := .load, inbox := [.core] }) = .ok .loadblk) ∧
    (({ base with inbox := [.core] }).inbox = .core :: [] ∧ ({ base with inbox := [.core] }).ph = .idle) ∧
    (({ base with ph := .serial }).inbox = [] ∧ decodeSQ (sqWord { base with ph := .serial }) = .ok .serial) ∧
    (base.inbox = [] ∧ base.ph = .idle) := by decide +kernel

/-- `RotationMovesEveryBit`: the ends of both ranges. -/
theorem test_witness_rotation : (1 ≤ 1 ∧ 1 ≤ 31 ∧ 0 < 32) ∧ (1 ≤ 31 ∧ 31 ≤ 31 ∧ 31 < 32) := by decide

/-- `ShiftAmounts`: the first and the last round of each quartile. -/
theorem test_witness_shift :
    ((0 : Round).toNat < 16 ∧ (15 : Round).toNat < 16) ∧
    (16 ≤ (16 : Round).toNat ∧ (31 : Round).toNat < 32) ∧
    (32 ≤ (32 : Round).toNat ∧ (47 : Round).toNat < 48) ∧
    (48 ≤ (48 : Round).toNat ∧ 48 ≤ (63 : Round).toNat) := by decide

/-- `PaddedLengthInvariants`, `PaddedLengthIsLeast`: the least and the greatest legal length, and a length that could
hold the padded message. -/
theorem test_witness_length : (0 < 2 ^ 61 ∧ 2 ^ 61 - 1 < 2 ^ 61) ∧ 64 % 64 = 0 ∧ 55 + 9 ≤ 64 := by decide

/-- `PaddedBytes`, `LengthFieldLittleEndian`: an index in each case for the length 3, and messages that agree below it. -/
theorem test_witness_padded :
    3 < 2 ^ 61 ∧ 2 < 3 ∧ (3 < 4 ∧ 4 < plen 3 - 8) ∧ (3 < 55 ∧ 55 < plen 3 - 8) ∧ (0 < 8 ∧ 7 < 8) ∧ 63 < plen 3 ∧
    ∀ j, j < 3 → (fun k : Nat => if k = 3 then (1 : Byte) else 0) j = (fun _ : Nat => (0 : Byte)) j := by decide

/-- `PaddingIsUnambiguous`: two messages that agree below their length have the same padded bytes. -/
theorem test_witness_unambiguous :
    plen 1 = plen 1 ∧ ∀ j, j < plen 1 →
      padByte 1 (fun k => if k = 1 then 5 else 0) j = padByte 1 (fun _ => 0) j := by decide +kernel

/-- `LoadblkLoadsTheBlock`: the only block of "abc". -/
theorem test_witness_loadblk :
    ([0x61, 0x62, 0x63] : List Byte).length = abc.len.toNat ∧ abc.len.toNat < 2 ^ 61 ∧
    abc.blk.toNat < nblk abc.len.toNat ∧
    ∀ (j : Nat) (hj : j < ([0x61, 0x62, 0x63] : List Byte).length), 64 * abc.blk.toNat ≤ j →
      j < 64 * abc.blk.toNat + 64 →
      j < abc.cap.toNat ∧ memRead abc.msg j = some ([0x61, 0x62, 0x63] : List Byte)[j] := by
  decide +kernel

/-- Two bytes are asked for and one is written. -/
def half : State := { base with len := 2, msg := [(0, 0x61)] }

/-- `UnwrittenReadFaults`: the last of two bytes is missing; a render of a byte that is missing, and of one beyond the
memory. -/
theorem test_witness_unwritten :
    (half.len.toNat < 2 ^ 61 ∧ half.blk.toNat < nblk half.len.toNat ∧ 64 * half.blk.toNat ≤ 1 ∧
      1 < 64 * half.blk.toNat + 64 ∧ 1 < half.len.toNat ∧ memRead half.msg 1 = none) ∧
    ({ base with rsrc := .message }).rsrc = .message ∧ memRead base.msg base.hcnt.toNat = none ∧
    ({ base with rsrc := .message, hcnt := 256 }).cap.toNat ≤ (256 : DWord).toNat := by decide +kernel

/-- `RoundFFResult` to `RoundIIResult`: the last round of each quartile, and for the last quartile another. -/
theorem test_witness_rounds :
    (15 : Round).toNat = (15 : BitVec 4).toNat ∧ (31 : Round).toNat = 16 + (15 : BitVec 4).toNat ∧
    (47 : Round).toNat = 32 + (15 : BitVec 4).toNat ∧
    ((63 : Round).toNat = 48 + (15 : BitVec 4).toNat ∧ (63 : Round).toNat = 63) ∧
    ((62 : Round).toNat = 48 + (14 : BitVec 4).toNat ∧ (62 : Round).toNat ≠ 63) := by decide

/-- `AddbackAddsTheWorkingVariables`: the last block, and another. -/
theorem test_witness_addback :
    base.blk.toNat + 1 = nblk base.len.toNat ∧
    ({ base with len := 56 }).blk.toNat + 1 ≠ nblk ({ base with len := 56 }).len.toNat := by decide

/-- `CompressorComputesCompress`. -/
theorem test_witness_compress : ({ base with ph := .copy }).ph = .copy ∧ ({ base with ph := .copy }).inbox = [] := by decide

/-- `StartCommand`: dropped, busy, `LEN = 2^61`, `LEN = MSG_CAP + 1`, `LEN = MSG_CAP`; a word under other bits. -/
theorem test_witness_start :
    ({ base with err := true }).err = true ∧
    (base.err = false ∧ ({ base with busy := true }).busy = true) ∧
    (base.busy = false ∧ 2 ^ 61 ≤ (0x2000000000000000 : DWord).toNat) ∧
    ((257 : DWord).toNat < 2 ^ 61 ∧ base.cap.toNat < (257 : DWord).toNat) ∧
    ((256 : DWord).toNat < 2 ^ 61 ∧ (256 : DWord).toNat ≤ base.cap.toNat) ∧ (0x101 : DWord).toNat % 256 = 0x01 := by decide

/-- `SerialWritesTheDigest`: the last byte. -/
theorem test_witness_serial : 3 < 4 ∧ 4 * 3 + 3 < 16 := by decide

/-- A digest of one byte asked for, with a turn of the host before the core's 68 turns. -/
def asked : State := { base with
  len := 1, msg := [(0, 0x61)]
  inbox := .ht (htRecord 4 0 0x01) :: (.ht 0 :: List.replicate 67 .core) ++ [.core] ++ [.sig 1] }

/-- `DigestComputation`. -/
theorem test_witness_digest :
    asked.err = false ∧ asked.busy = false ∧ ([0x61] : List Byte).length = asked.len.toNat ∧
    asked.len.toNat < 2 ^ 61 ∧ asked.len.toNat ≤ asked.cap.toNat ∧
    (∀ (j : Nat) (hj : j < ([0x61] : List Byte).length), memRead asked.msg j = some ([0x61] : List Byte)[j]) ∧
    asked.inbox = .ht (htRecord 4 0 0x01) :: (.ht 0 :: List.replicate 67 .core) ++ [.core] ++ [.sig 1] ∧
    (∀ e ∈ (.ht 0 :: List.replicate 67 .core : List Event), notReset e = true) ∧
    coreTurns (.ht 0 :: List.replicate 67 .core) = 67 * nblk ([0x61] : List Byte).length := by decide +kernel

/-- A state inside the digest computation of `asked`. -/
theorem test_witness_digest_inside :
    after (Sys2Proof.core.run 1 asked) (fun u : State => (u.done, u.busy)) = some (false, true) := by decide +kernel

/-- An idle block with a digest meets the invariant. -/
theorem test_witness_invariant (es : List Event) : BlockInv { emptyDone with inbox := es } := by
  constructor <;> simp [emptyDone, base, State.afterReset, inBlock, memWf]

/-- `DigestIsStable`, `StepKeepsInvariant`, `OnlyUnwrittenReadStops`, `PhaseTransitions`: a step that keeps `DONE`; a
`START`, which clears it and begins; a `RESET`. -/
theorem test_witness_stable :
    emptyDone.done = true ∧ after (step emptyDone) (fun t => t.done) = some true ∧
    after (step { emptyDone with inbox := [.ht (htRecord 4 0 0x01)] }) (fun t => (t.done, t.busy)) = some (false, true) ∧
    after (step { emptyDone with inbox := [.sig 1] }) (fun t => t.done) = some false ∧
    ∀ rest, ({ emptyDone with inbox := [.ht (htRecord 4 0 0x01)] }).inbox ≠ .sig 1 :: rest := by
  refine ⟨?_, ?_, ?_, ?_, ?_⟩
  iterate 4 decide +kernel
  simp

/-- `HexCharacters`: where the digits and the letters meet. -/
theorem test_witness_characters :
    (0 : BitVec 4).toNat ≤ 9 ∧ (9 : BitVec 4).toNat ≤ 9 ∧ 10 ≤ (10 : BitVec 4).toNat ∧ 10 ≤ (15 : BitVec 4).toNat := by
  decide

/-- `HexRoundTrip`: the last byte of two, and two sequences with one text. -/
theorem test_witness_hex : 1 < ([0x00, 0xff] : List Byte).length ∧ hexStr [0x00, 0xff] = hexStr [0x00, 0xff] := by decide

/-- `RenderDigCommand`. -/
theorem test_witness_renderDig :
    ({ base with err := true }).err = true ∧ (base.err = false ∧ ({ base with busy := true }).busy = true) ∧
    (base.busy = false ∧ base.done = false) ∧
    (emptyDone.err = false ∧ emptyDone.busy = false ∧ emptyDone.done = true) ∧ (0xff02 : DWord).toNat % 256 = 0x02 := by
  decide

/-- `RenderMsgCommand`: `LEN = MSG_CAP + 1`, 0 and `MSG_CAP`. -/
theorem test_witness_renderMsg :
    ({ base with err := true }).err = true ∧ (base.err = false ∧ ({ base with busy := true }).busy = true) ∧
    (base.busy = false ∧ base.cap.toNat < (257 : DWord).toNat) ∧ base.len = 0 ∧
    ((256 : DWord) ≠ 0 ∧ (256 : DWord).toNat ≤ base.cap.toNat) ∧ (0x0A : DWord).toNat % 256 = 0x0A := by decide

/-- `RstepRendersOneByte`: the last byte of a digest, and a byte of a message that is not the last. -/
theorem test_witness_rstep :
    (({ emptyDone with hcnt := 15, hlen := 32 }).rsrc = .digest ∧ 15 < 16 ∧ emptyDone.dig[15]? = some 0x7e ∧
      2 * (15 + 1) = 32) ∧
    (({ abc with rsrc := .message, hlen := 6 }).rsrc = .message ∧ abc.hcnt.toNat < abc.cap.toNat ∧
      memRead abc.msg abc.hcnt.toNat = some 0x61 ∧ 2 * (abc.hcnt.toNat + 1) ≠ 6) := by decide +kernel

/-- `RenderComputation`: a digest, and a message of one byte. -/
theorem test_witness_render :
    (emptyDone.err = false ∧ emptyDone.busy = false ∧ emptyDone.done = true ∧
      (∀ e ∈ List.replicate 15 Event.core, notReset e = true) ∧
      coreTurns (List.replicate 15 .core) + 1 = emptyDone.dig.toList.length) ∧
    (asked.err = false ∧ asked.busy = false ∧ ([0x61] : List Byte).length = asked.len.toNat ∧
      asked.len.toNat ≤ asked.cap.toNat ∧ asked.len ≠ 0 ∧ memRead asked.msg 0 = some 0x61 ∧
      coreTurns [.ht 0] + 1 = ([0x61] : List Byte).length ∧ (∀ e ∈ [Event.ht 0], notReset e = true)) := by decide +kernel

/-- `RegisterReads`: the numbers where the clauses meet. -/
theorem test_witness_hrdReg : 5 < (6 : DWord).toNat ∧ 5 < (0xffffffffffffffff : DWord).toNat ∧ ¬ 5 < (5 : DWord).toNat := by
  decide

/-- `MessageReads`: a written cell, the first address that does not exist, an unwritten cell. -/
theorem test_witness_hrdMsg :
    ((2 : DWord).toNat < abc.cap.toNat ∧ memRead abc.msg (2 : DWord).toNat = some 0x63) ∧
    abc.cap.toNat ≤ (256 : DWord).toNat ∧ memRead abc.msg (3 : DWord).toNat = none := by decide

/-- `DigestReads`: the last register, the first number above, and no digest. -/
theorem test_witness_hrdDig :
    ((15 : DWord).toNat < 16 ∧ emptyDone.done = true) ∧ base.done = false ∧ 16 ≤ (16 : DWord).toNat := by decide

/-- A text of two characters, complete. -/
def text : State := { base with hexv := true, hlen := 2, hexo := [(0, 0x36), (1, 0x31)] }

/-- `HexTextReads`: the last character of a text in a state that meets the invariant. -/
theorem test_witness_hrdHexo : BlockInv text ∧ text.hexv = true ∧ (1 : DWord).toNat < text.hlen.toNat := by
  refine ⟨?_, by decide, by decide⟩
  constructor <;> simp [text, base, State.afterReset, inBlock, memWf, hexCap]
  intro p hp
  have : p = 0 ∨ p = 1 := by omega
  rcases this with rfl | rfl <;> rfl

/-- `HexTextReads`: no text, and the first number above it. -/
theorem test_witness_hrdHexo_invalid : base.hexv = false ∧ text.hlen.toNat ≤ (2 : DWord).toNat := by decide

/-- `ReadsChangeNothing`, `WriteGate`: a read, and a write in a locked and in a busy block. -/
theorem test_witness_groups :
    isHostRead (.hrdDig 3) = true ∧
    (isHostWrite (.hwrHexo 0 0) = true ∧ ({ base with err := true }).err = true) ∧
    (isHostWrite .start = true ∧ base.err = false ∧ ({ base with busy := true }).busy = true) := by decide

/-- `RegisterWrites`: an open block, a word and a register that are not taken, and each command word under other bits. -/
theorem test_witness_hwrReg :
    (base.err = false ∧ base.busy = false) ∧
    ((0x0b : Byte) ≠ 0x01 ∧ (0x0b : Byte) ≠ 0x02 ∧ (0x0b : Byte) ≠ 0x0A) ∧ ((1 : DWord) ≠ 0 ∧ (1 : DWord) ≠ 2) ∧
    (0x101 : DWord).toNat % 256 = 0x01 ∧ (0xff02 : DWord).toNat % 256 = 0x02 ∧ (0x0A : DWord).toNat % 256 = 0x0A ∧
    ((0x100 : DWord).toNat % 256 ≠ 0x01 ∧ (0x100 : DWord).toNat % 256 ≠ 0x02 ∧
      (0x100 : DWord).toNat % 256 ≠ 0x0A) := by decide

/-- `MessageWrites`: the gate, the last cell and the first address that does not exist. -/
theorem test_witness_hwrMsg : ({ base with err := true }).err = true ∧
    (base.err = false ∧ ({ base with busy := true }).busy = true) ∧ (base.err = false ∧ base.busy = false) ∧ (255 : DWord).toNat < base.cap.toNat ∧
    base.cap.toNat ≤ (256 : DWord).toNat := by decide

/-- `ResultSpacesAreReadOnly`: a locked block, an open one and a busy one. -/
theorem test_witness_hwrDig : ({ base with err := true }).err = true ∧ base.err = false ∧ base.busy = false ∧ ({ base with busy := true }).err = false ∧
    ({ base with busy := true }).busy = true := by decide

/-- `RefusalWritesErrOnly`: a write that is refused. -/
theorem test_witness_refusal : isHostWrite (.hwrDig 0 0) = true ∧ base.err = false ∧
    after (exec (.hwrDig 0 0) base) State.err = some true := by decide

/-- `FirstCauseIsKept`: a write in a locked block, and an operation that is no write. -/
theorem test_witness_first_cause :
    (after (exec .start { base with err := true, ecode := .badWrite }) State.ecode = some .badWrite ∧
      Instr.start ≠ .reset) ∧
    (after (exec .copyin base) State.err = some false ∧ isHostWrite .copyin = false) := by decide

/-- `HostCannotDisturb`: a busy block and a transaction. -/
theorem test_witness_disturb : ({ base with busy := true }).busy = true ∧ Event.ht 0 ≠ .core ∧
    notReset (.ht 0) = true ∧ notReset (.sig 0) = true := by decide

/-- `WhoWritesWhat`: for each clause an operation that completes and changes that state: the data. -/
theorem test_witness_who :
    after (exec .start { base with h := ⟨0, 0, 0, 0⟩ }) (fun t => decide (t.h ≠ ⟨0, 0, 0, 0⟩)) = some true ∧
    after (exec .copyin { base with h := iv, w := ⟨0, 0, 0, 0⟩ }) (fun t => decide (t.w ≠ ⟨0, 0, 0, 0⟩)) = some true ∧
    after (exec .loadblk { base with m := Vector.replicate 16 0 }) (fun t => decide (t.m ≠ Vector.replicate 16 0)) =
      some true ∧
    after (exec .serial { emptyDone with h := iv }) (fun t => decide (t.dig ≠ emptyDone.dig)) = some true ∧
    after (exec .rstep emptyDone) (fun t => decide (t.hexo ≠ [])) = some true ∧
    after (exec (.hwrMsg 0 0) base) (fun t => decide (t.msg ≠ [])) = some true ∧
    after (exec (.hwrRegLen 1) base) (fun t => decide (t.len ≠ 0)) = some true ∧
    after (exec .renderDig emptyDone) (fun t => decide (t.hlen ≠ 0)) = some true := by decide +kernel

/-- `WhoWritesWhat`, the sequence position and the flags. -/
theorem test_witness_who_control :
    after (exec (.roundII 15) base) (fun t => decide (t.ph ≠ base.ph)) = some true ∧
    after (exec .addback base) (fun t => decide (t.blk ≠ base.blk)) = some true ∧
    after (exec (.roundGG 0) base) (fun t => decide (t.rnd ≠ base.rnd)) = some true ∧
    after (exec .rstep emptyDone) (fun t => decide (t.hcnt ≠ emptyDone.hcnt)) = some true ∧
    after (exec .renderMsg base) (fun t => decide (t.rsrc ≠ base.rsrc ∧ t.hexv ≠ base.hexv)) = some true ∧
    after (exec .start emptyDone) (fun t => decide (t.busy ≠ emptyDone.busy ∧ t.done ≠ emptyDone.done)) = some true ∧
    after (exec .renderDig base) (fun t => decide (t.err ≠ base.err ∧ t.ecode ≠ base.ecode)) = some true := by
  decide +kernel

/-- `DeadRegistersAreNeverObserved`: two idle blocks that hold different values in the three registers. -/
theorem test_witness_dead :
    sameLive base { base with h := iv, w := ⟨1, 2, 3, 4⟩, m := Vector.replicate 16 5 } := by
  simp [sameLive, base, State.afterReset]

/-- `MessageIsBorrowedReadOnly`: a busy block, a step that completes, no reset. -/
theorem test_witness_borrowed :
    ({ base with busy := true, ph := .copy }).busy = true ∧
    after (step { base with busy := true, ph := .copy }) State.ph = some .round ∧
    ∀ rest, ({ base with busy := true, ph := .copy }).inbox ≠ .sig 1 :: rest := by
  refine ⟨?_, ?_, ?_⟩
  · decide
  · decide +kernel
  · simp [base, State.afterReset]

end Sys2Proof.Tests
end

namespace Sys2Proof.Machine

/-! ### What an operation that completed has done

The inversion of each kind of operation, and after it one relation, `Effect`, that says it of all. -/

/-- A host write that completed was dropped, refused or accepted (R238). -/
theorem of_hostWrite_next {i : Instr} (hi : isHostWrite i = true) {s t : State} (h : exec i s = .next t) :
    (s.err = true ∧ t = s) ∨ (s.err = false ∧ ∃ c, c ≠ Cause.none ∧ t = raiseRefusal c s) ∨
      (s.err = false ∧ s.busy = false ∧ writeAccepted i s t) := by
  obtain ⟨u, hu, hcases⟩ := exec_hostWrite_cases hi s
  obtain rfl : u = t := by simpa [hu] using h
  exact hcases

/-- A host read that completed changed the model's `rdata` and `draws` at most (R66). -/
theorem of_hostRead_next {i : Instr} (hi : isHostRead i = true) {s t : State} (h : exec i s = .next t) :
    ∃ v n, t = { s with rdata := v, draws := n } := by
  obtain ⟨v, n, e⟩ := exec_hostRead hi s
  rw [e] at h
  cases h
  exact ⟨v, n, rfl⟩

theorem of_execLoadblk_next {s t : State} (h : execLoadblk s = .next t) :
    blockExists s = true ∧ blockWritten s = true ∧
      t = { s with m := blockWords s.len.toNat (msgByte s) s.blk.toNat, ph := .copy } := by
  rcases execLoadblk_cases s with ⟨hex, hwr, e⟩ | ⟨-, -, e⟩ | ⟨-, e⟩ <;> rw [e] at h <;> cases h
  exact ⟨hex, hwr, rfl⟩

theorem of_execRstep_next {s t : State} (h : execRstep s = .next t) :
    ∃ v, rstepSource s = .ok v ∧ hexCellsExist s s.hcnt.toNat = true ∧ t = renderByte v s := by
  rcases execRstep_cases s with ⟨v, hsrc, hcells, e⟩ | ⟨v, -, -, e⟩ | ⟨f, -, e⟩ <;> rw [e] at h <;> cases h
  exact ⟨v, hsrc, hcells, rfl⟩

/-- The rows of format `QS` (R84). -/
def isSelector : Instr → Bool
  | .mixF | .mixG | .mixH | .mixI | .widx0 | .widx1 | .widx2 | .widx3 => true
  | _ => false

/-- A round operation with its mix formula, its word-index formula and its round index (R155 to R158). -/
inductive RoundOp : Instr → (Word → Word → Word → Word) → (Round → BitVec 4) → Round → Prop where
  | ff (j : BitVec 4) : RoundOp (.roundFF j) mixF widx0 (roundIndex 0 j)
  | gg (j : BitVec 4) : RoundOp (.roundGG j) mixG widx1 (roundIndex 1 j)
  | hh (j : BitVec 4) : RoundOp (.roundHH j) mixH widx2 (roundIndex 2 j)
  | ii (j : BitVec 4) : RoundOp (.roundII j) mixI widx3 (roundIndex 3 j)

/-- What an operation that completes in `s` can have done: one constructor per kind of effect. -/
inductive Effect (s : State) : Instr → State → Prop where
  /-- A host write in a locked block is dropped (R238). -/
  | dropped {i} (hw : isHostWrite i = true) (locked : s.err = true) : Effect s i s
  /-- A host write is refused with a cause (R262). -/
  | refused {i c} (hw : isHostWrite i = true) (hopen : s.err = false) (hc : c ≠ Cause.none) :
    Effect s i (raiseRefusal c s)
  /-- A host write is accepted in an open block (R238). -/
  | accepted {i t} (hopen : s.err = false) (free : s.busy = false) (acc : writeAccepted i s t) : Effect s i t
  /-- A host read returns a value (R66). -/
  | hostRead {i} (hr : isHostRead i = true) (v : DWord) (n : Nat) : Effect s i { s with rdata := v, draws := n }
  /-- A selector row delivers its value (log 7). -/
  | selector {i} (hq : isSelector i = true) (f : Word) (g : BitVec 4) : Effect s i { s with fOut := f, gOut := g }
  /-- `LOADBLK` (R135). -/
  | loadblk (hex : blockExists s = true) (hwr : blockWritten s = true) :
    Effect s .loadblk { s with m := blockWords s.len.toNat (msgByte s) s.blk.toNat, ph := .copy }
  /-- `COPYIN` (R154). -/
  | copyin : Effect s .copyin { s with w := s.h, rnd := 0, ph := .round }
  /-- A round (R155 to R158). -/
  | round {i f g r} (op : RoundOp i f g r) : Effect s i (runRound f g r s)
  /-- `ADDBACK` (R159). -/
  | addback : Effect s .addback { s with
      h := quadAdd s.h s.w
      blk := s.blk + 1
      ph := if s.blk.toNat + 1 = nblk s.len.toNat then .serial else .load }
  /-- `SERIAL` (R186). -/
  | serial : Effect s .serial { s with dig := quadBytes s.h, done := true, busy := false, ph := .idle }
  /-- `RSTEP` (R215). -/
  | rstep (v : Byte) (hsrc : rstepSource s = .ok v) (hcells : hexCellsExist s s.hcnt.toNat = true) :
    Effect s .rstep (renderByte v s)
  /-- `RESET` (R290). -/
  | reset : Effect s .reset (resetBlock s)

/-- Every operation that completes has one of the effects. -/
theorem exec_effect {i : Instr} {s t : State} (h : exec i s = .next t) : Effect s i t := by
  cases i with
  | start | renderDig | renderMsg | hwrRegCmdIllegal | hwrRegLen | hwrReg | hwrMsg | hwrDig | hwrHexo =>
    rcases of_hostWrite_next rfl h with ⟨he, rfl⟩ | ⟨he, c, hc, rfl⟩ | ⟨he, hb, ha⟩
    · exact .dropped rfl he
    · exact .refused rfl he hc
    · exact .accepted he hb ha
  | hrdReg | hrdMsg | hrdDig | hrdHexo =>
    obtain ⟨v, n, rfl⟩ := of_hostRead_next rfl h
    exact .hostRead rfl v n
  | loadblk =>
    obtain ⟨hex, hwr, rfl⟩ := of_execLoadblk_next h
    exact .loadblk hex hwr
  | copyin => cases h; exact .copyin
  | roundFF j => cases h; exact .round (.ff j)
  | roundGG j => cases h; exact .round (.gg j)
  | roundHH j => cases h; exact .round (.hh j)
  | roundII j => cases h; exact .round (.ii j)
  | addback => cases h; exact .addback
  | serial => cases h; exact .serial
  | rstep =>
    obtain ⟨v, hsrc, hcells, rfl⟩ := of_execRstep_next h
    exact .rstep v hsrc hcells
  | mixF | mixG | mixH | mixI => cases h; exact .selector rfl _ s.gOut
  | widx0 | widx1 | widx2 | widx3 => cases h; exact .selector rfl s.fOut _
  | reset => cases h; exact .reset

end Sys2Proof.Machine

namespace Sys2Proof.Machine

/-! ### Two characters written side by side (R215) -/

/-- The memory with the two characters of byte `n` of a text written. -/
def writePair (m : Mem) (n : Nat) (x y : Byte) : Mem := memWrite (memWrite m (2 * n) x) (2 * n + 1) y

theorem writePair_wf {m : Mem} (hm : memWf m) (n : Nat) (x y : Byte) : memWf (writePair m n x y) :=
  memWrite_wf (memWrite_wf hm _ _) _ _

theorem writePair_range {m : Mem} {n bound : Nat} (x y : Byte) (hm : ∀ c ∈ m, c.1 < bound) (hn : 2 * n + 1 < bound) :
    ∀ c ∈ writePair m n x y, c.1 < bound := by
  intro c hc
  rcases mem_memWrite hc with hc | rfl
  · rcases mem_memWrite hc with hc | rfl
    · exact hm c hc
    · exact Nat.lt_of_succ_lt hn
  · exact hn

/-- A write leaves every written cell written, and the cell it writes. -/
theorem memWrite_isSome {m : Mem} {a p : Nat} (v : Byte) (h : p = a ∨ (memRead m p).isSome = true) :
    (memRead (memWrite m a v) p).isSome = true := by
  by_cases hp : p = a
  · simp [hp]
  · rw [memRead_memWrite_other m v hp]
    exact h.resolve_left hp

/-- With the characters of the first `n` bytes written, writing byte `n` leaves those of the first `n + 1` written. -/
theorem writePair_isSome {m : Mem} {n : Nat} (x y : Byte) (hm : ∀ p, p < 2 * n → (memRead m p).isSome = true) :
    ∀ p, p < 2 * (n + 1) → (memRead (writePair m n x y) p).isSome = true := by
  intro p hp
  have hp' : p = 2 * n + 1 ∨ p = 2 * n ∨ p < 2 * n := by omega
  exact memWrite_isSome y (hp'.imp_right fun h => memWrite_isSome x (h.imp_right (hm p)))

/-- The two cells of byte `n` exist when they lie below `HEX_CAP` (R8). -/
theorem hexCellsExist_iff (s : State) (n : Nat) : hexCellsExist s n = true ↔ 2 * n + 1 < hexCap s := by
  simp only [hexCellsExist, hexCap, Bool.or_eq_true, decide_eq_true_eq]
  omega

/-! ### The invariant, phase by phase

`BlockInv` says something of every phase. A state's phase leaves few of its fields to prove; the three lemmas below say
which, for an idle block, a block that computes a digest and a block that renders. -/

/-- The part of `BlockInv` that no phase matters to: the refusal registers and the memories. -/
structure StoredInv (s : State) : Prop where
  err_iff : s.err = true ↔ s.ecode ≠ .none
  msg_wf : memWf s.msg
  hexo_wf : memWf s.hexo
  msg_range : ∀ c ∈ s.msg, c.1 < s.cap.toNat
  hexo_range : ∀ c ∈ s.hexo, c.1 < hexCap s

/-- A digest computation is in progress (R182 to R186). -/
def computing (p : Phase) : Prop := inBlock p ∨ p = .serial

theorem computing_ne_idle {p : Phase} (h : computing p) : p ≠ .idle := by
  rintro rfl
  simp [computing, inBlock] at h

theorem computing_ne_render {p : Phase} (h : computing p) : p ≠ .render := by
  rintro rfl
  simp [computing, inBlock] at h

/-- The invariant of an idle block. -/
theorem StoredInv.of_idle {s : State} (st : StoredInv s) (hp : s.ph = .idle) (hb : s.busy = false) (hr : s.rnd = 0)
    (hx : s.hexv = true → ∀ p, p < s.hlen.toNat → (memRead s.hexo p).isSome = true) : BlockInv s :=
  { st with
    busy_iff := by simp [hp, hb]
    done_phase := fun _ => .inl hp
    hexv_idle := fun _ => hp
    block_lt := by simp [hp, inBlock]
    render_lt := by simp [hp]
    rnd_zero := fun _ => hr
    len_legal := by simp [hp, inBlock]
    render_digest := by simp [hp]
    render_message := by simp [hp]
    render_written := by simp [hp]
    hexv_written := hx }

/-- The invariant of a block that computes a digest. -/
theorem StoredInv.of_computing {s : State} (st : StoredInv s) (hp : computing s.ph) (hb : s.busy = true)
    (hd : s.done = false) (hx : s.hexv = false) (hblk : inBlock s.ph → s.blk.toNat < nblk s.len.toNat)
    (hr : s.ph ≠ .round → s.rnd = 0) (hl : s.len.toNat < 2 ^ 61 ∧ s.len.toNat ≤ s.cap.toNat) : BlockInv s :=
  have hni := computing_ne_idle hp
  have hnr := computing_ne_render hp
  { st with
    busy_iff := by simp [hb, hni]
    done_phase := by simp [hd]
    hexv_idle := by simp [hx]
    block_lt := hblk
    render_lt := fun h => absurd h hnr
    rnd_zero := hr
    len_legal := fun _ => hl
    render_digest := fun h => absurd h hnr
    render_message := fun h => absurd h hnr
    render_written := fun h => absurd h hnr
    hexv_written := by simp [hx] }

/-- The invariant of a block that renders. -/
theorem StoredInv.of_render {s : State} (st : StoredInv s) (hp : s.ph = .render) (hb : s.busy = true)
    (hx : s.hexv = false) (hr : s.rnd = 0) (hlt : 2 * s.hcnt.toNat < s.hlen.toNat)
    (hdig : s.rsrc = .digest → s.done = true ∧ s.hlen = 32)
    (hmsg : s.rsrc = .message → s.len.toNat ≤ s.cap.toNat ∧ s.hlen.toNat = 2 * s.len.toNat)
    (hw : ∀ p, p < 2 * s.hcnt.toNat → (memRead s.hexo p).isSome = true) : BlockInv s :=
  { st with
    busy_iff := by simp [hp, hb]
    done_phase := fun _ => .inr hp
    hexv_idle := by simp [hx]
    block_lt := by simp [hp, inBlock]
    render_lt := fun _ => hlt
    rnd_zero := fun _ => hr
    len_legal := by simp [hp, inBlock]
    render_digest := fun _ => hdig
    render_message := fun _ => hmsg
    render_written := fun _ => hw
    hexv_written := by simp [hx] }

/-- `BUSY = 0` says that the block is idle (R30). -/
theorem BlockInv.idle_of_not_busy {s : State} (inv : BlockInv s) (hb : s.busy = false) : s.ph = .idle := by
  by_contra h
  simp [inv.busy_iff.mpr h] at hb

theorem BlockInv.busy_of_ne_idle {s : State} (inv : BlockInv s) (h : s.ph ≠ .idle) : s.busy = true :=
  inv.busy_iff.mpr h

/-- `RND` is 0 in a phase other than `ROUND` (R83). -/
theorem BlockInv.rnd_of_phase {s : State} (inv : BlockInv s) {p : Phase} (hp : s.ph = p) (h : p ≠ .round) : s.rnd = 0 :=
  inv.rnd_zero (hp ▸ h)

theorem BlockInv.not_hexv_of_ne_idle {s : State} (inv : BlockInv s) (h : s.ph ≠ .idle) : s.hexv = false := by
  cases hx : s.hexv with
  | false => rfl
  | true => exact absurd (inv.hexv_idle hx) h

theorem BlockInv.not_done_of_computing {s : State} (inv : BlockInv s) (h : computing s.ph) : s.done = false := by
  cases hd : s.done with
  | false => rfl
  | true =>
    rcases inv.done_phase hd with hp | hp
    · exact absurd hp (computing_ne_idle h)
    · exact absurd hp (computing_ne_render h)

/-! ### Reset -/

theorem afterReset_inv (cap : BitVec 61) (n : Nat) : BlockInv (State.afterReset cap n) :=
  StoredInv.of_idle ⟨by simp [State.afterReset], .nil, .nil, nofun, nofun⟩ rfl rfl rfl nofun

/-- Settles O51: the block is idle after reset and its memories list nothing. -/
theorem invariantHoldsAtReset : Obligations.InvariantHoldsAtReset :=
  afterReset_inv _ _

theorem resetBlock_inv (s : State) : BlockInv (resetBlock s) :=
  { afterReset_inv s.cap s.draws with }

/-! ### The host's operations keep the invariant -/

/-- The model's own fields are not the invariant's. -/
theorem BlockInv.ownFields {s : State} (inv : BlockInv s) (v : DWord) (n : Nat) (f : Word) (g : BitVec 4)
    (es : List Event) :
    BlockInv { s with rdata := v, draws := n, fOut := f, gOut := g, inbox := es } :=
  { inv with }

theorem BlockInv.raiseRefusal {s : State} (inv : BlockInv s) {c : Cause} (hc : c ≠ .none) :
    BlockInv (raiseRefusal c s) :=
  { inv with err_iff := by simp [hc] }

theorem BlockInv.beginDigest {s : State} (inv : BlockInv s)
    (hl : s.len.toNat < 2 ^ 61 ∧ s.len.toNat ≤ s.cap.toNat) : BlockInv (beginDigest s) :=
  StoredInv.of_computing { inv with } (.inl (.inl rfl)) rfl rfl rfl (fun _ => nblk_pos _) (fun _ => rfl) hl

theorem BlockInv.beginRenderDig {s : State} (inv : BlockInv s) (hp : s.ph = .idle) (hd : s.done = true) :
    BlockInv (beginRenderDig s) :=
  StoredInv.of_render { inv with } rfl rfl rfl (inv.rnd_of_phase hp nofun) (by simp) (fun _ => ⟨hd, rfl⟩) nofun
    (by simp)

/-- A length within the message memory can be doubled without overflow, so `HLEN` is exact (R214). -/
theorem two_mul_len_toNat {s : State} (h : s.len.toNat ≤ s.cap.toNat) : (2 * s.len).toNat = 2 * s.len.toNat := by
  have hcap := s.cap.isLt
  rw [BitVec.toNat_mul]
  exact Nat.mod_eq_of_lt (by simp; omega)

theorem BlockInv.beginRenderMsg {s : State} (inv : BlockInv s) (hp : s.ph = .idle)
    (hl : s.len.toNat ≤ s.cap.toNat) : BlockInv (beginRenderMsg s) := by
  have hr := inv.rnd_of_phase hp nofun
  have hlen := two_mul_len_toNat hl
  unfold Machine.beginRenderMsg
  split
  · next h0 =>
    have hb : s.busy = false := by simpa [hp] using inv.busy_iff
    exact StoredInv.of_idle { inv with } hp hb hr (fun _ p hlt => by simp [h0] at hlt)
  · next h0 =>
    have hpos : s.len.toNat ≠ 0 := fun h => h0 (BitVec.eq_of_toNat_eq h)
    refine StoredInv.of_render { inv with } rfl rfl rfl hr ?_ nofun (fun _ => ⟨hl, hlen⟩) (by simp)
    show 2 * 0 < (2 * s.len).toNat
    omega

theorem BlockInv.writeLen {s : State} (inv : BlockInv s) (hp : s.ph = .idle) (hb : s.busy = false) (d : DWord) :
    BlockInv { s with len := d } :=
  StoredInv.of_idle { inv with } hp hb (inv.rnd_of_phase hp nofun) inv.hexv_written

theorem BlockInv.writeMsg {s : State} (inv : BlockInv s) {a : Nat} (ha : a < s.cap.toNat) (v : Byte) :
    BlockInv { s with msg := memWrite s.msg a v } :=
  { inv with
    msg_wf := memWrite_wf inv.msg_wf a v
    msg_range := fun c hc => (mem_memWrite hc).elim (inv.msg_range c) fun h => h ▸ ha }

theorem BlockInv.writeAccepted {i : Instr} {s t : State} (inv : BlockInv s) (hb : s.busy = false)
    (h : writeAccepted i s t) : BlockInv t := by
  have hp := inv.idle_of_not_busy hb
  rcases h with ⟨-, hlt, hle, rfl⟩ | ⟨-, hd, rfl⟩ | ⟨-, hle, rfl⟩ | ⟨d, -, rfl⟩ | ⟨a, v, -, ha, rfl⟩
  · exact inv.beginDigest ⟨hlt, hle⟩
  · exact inv.beginRenderDig hp hd
  · exact inv.beginRenderMsg hp hle
  · exact inv.writeLen hp hb d
  · exact inv.writeMsg ha v

/-- A host write keeps the invariant, whether it is dropped, refused or accepted. -/
theorem BlockInv.hostWrite {i : Instr} {s t : State} (inv : BlockInv s) (hi : isHostWrite i = true)
    (h : exec i s = .next t) : BlockInv t := by
  rcases of_hostWrite_next hi h with ⟨-, rfl⟩ | ⟨-, c, hc, rfl⟩ | ⟨-, hb, ha⟩
  · exact inv
  · exact inv.raiseRefusal hc
  · exact inv.writeAccepted hb ha

/-! ### The micro-operations keep the invariant -/

/-- A step of a digest computation that leaves it in progress changes its registers and its position only. -/
theorem BlockInv.computeStep {s : State} (inv : BlockInv s) {p q : Phase} (hs : s.ph = p) (hcp : computing p)
    (hcq : computing q) {b : BitVec 58} {r : Round} (hb : inBlock q → b.toNat < nblk s.len.toNat)
    (hr : q ≠ .round → r = 0) (h w : Quad) (m : Vector Word 16) :
    BlockInv { s with h := h, w := w, m := m, ph := q, blk := b, rnd := r } := by
  subst hs
  have hne := computing_ne_idle hcp
  exact StoredInv.of_computing { inv with } hcq (inv.busy_of_ne_idle hne) (inv.not_done_of_computing hcp)
    (inv.not_hexv_of_ne_idle hne) hb hr (inv.len_legal hcp)

theorem BlockInv.loadblk {s t : State} (inv : BlockInv s) (hp : s.ph = .load) (h : execLoadblk s = .next t) :
    BlockInv t := by
  obtain ⟨hex, -, rfl⟩ := of_execLoadblk_next h
  exact inv.computeStep hp (.inl (.inl rfl)) (.inl (.inr (.inl rfl))) (fun _ => ((blockExists_iff s).mp hex).2)
    (fun _ => inv.rnd_of_phase hp nofun) s.h s.w _

theorem BlockInv.copyin {s t : State} (inv : BlockInv s) (hp : s.ph = .copy) (h : execCopyin s = .next t) :
    BlockInv t := by
  cases h
  have hin : inBlock s.ph := .inr (.inl hp)
  exact inv.computeStep rfl (.inl hin) (.inl (.inr (.inr (.inl rfl)))) (fun _ => inv.block_lt hin) (fun _ => rfl)
    s.h s.h s.m

theorem BlockInv.round {s : State} (inv : BlockInv s) (hp : s.ph = .round) (w : Quad) :
    BlockInv (advanceRound s.rnd { s with w := w }) := by
  have hin : inBlock s.ph := .inr (.inr (.inl hp))
  rcases advanceRound_cases s.rnd { s with w := w } with ⟨-, e⟩ | ⟨-, e⟩ <;> rw [e]
  · exact inv.computeStep rfl (.inl hin) (.inl (.inr (.inr (.inr rfl)))) (fun _ => inv.block_lt hin) (fun _ => rfl)
      s.h w s.m
  · exact inv.computeStep rfl (.inl hin) (.inl hin) (fun _ => inv.block_lt hin) (fun hne => absurd hp hne) s.h w s.m

/-- The block index of a legal length is counted up without overflow (R131, R159). -/
theorem BlockInv.blk_succ_toNat {s : State} (inv : BlockInv s) (hin : inBlock s.ph) :
    (s.blk + 1).toNat = s.blk.toNat + 1 := by
  have hle := nblk_le (inv.len_legal (.inl hin)).1
  have hlt := inv.block_lt hin
  exact BitVec.toNat_add_of_lt (by simp; omega)

theorem BlockInv.addback {s t : State} (inv : BlockInv s) (hp : s.ph = .addback) (h : execAddback s = .next t) :
    BlockInv t := by
  cases h
  have hin : inBlock s.ph := .inr (.inr (.inr hp))
  have hlt := inv.block_lt hin
  have hr : s.rnd = 0 := inv.rnd_of_phase hp nofun
  by_cases hlast : s.blk.toNat + 1 = nblk s.len.toNat
  · rw [if_pos hlast]
    exact inv.computeStep rfl (.inl hin) (.inr rfl) (by simp [inBlock]) (fun _ => hr) _ s.w s.m
  · rw [if_neg hlast]
    refine inv.computeStep rfl (.inl hin) (.inl (.inl rfl)) (fun _ => ?_) (fun _ => hr) _ s.w s.m
    rw [inv.blk_succ_toNat hin]
    omega

theorem BlockInv.serial {s t : State} (inv : BlockInv s) (hp : s.ph = .serial) (h : execSerial s = .next t) :
    BlockInv t := by
  cases h
  exact StoredInv.of_idle { inv with } rfl rfl (inv.rnd_of_phase hp nofun) inv.hexv_written

/-- The text of a render has two characters for each of its bytes (R213, R214). -/
theorem BlockInv.render_hlen_even {s : State} (inv : BlockInv s) (hp : s.ph = .render) :
    ∃ n, s.hlen.toNat = 2 * n := by
  cases hsrc : s.rsrc with
  | digest => exact ⟨16, by rw [(inv.render_digest hp hsrc).2]; rfl⟩
  | message => exact ⟨s.len.toNat, (inv.render_message hp hsrc).2⟩

theorem BlockInv.hcnt_succ_toNat {s : State} (inv : BlockInv s) (hp : s.ph = .render) :
    (s.hcnt + 1).toNat = s.hcnt.toNat + 1 := by
  have hlt := inv.render_lt hp
  have hlen := s.hlen.isLt
  exact BitVec.toNat_add_of_lt (by simp; omega)

theorem BlockInv.renderByte {s : State} (inv : BlockInv s) (hp : s.ph = .render)
    (hcells : hexCellsExist s s.hcnt.toNat = true) (v : Byte) : BlockInv (renderByte v s) := by
  have hr : s.rnd = 0 := inv.rnd_of_phase hp nofun
  have hlt := inv.render_lt hp
  have hsucc := inv.hcnt_succ_toNat hp
  have hwf := writePair_wf inv.hexo_wf s.hcnt.toNat (hexHigh v) (hexLow v)
  have hrange := writePair_range (hexHigh v) (hexLow v) inv.hexo_range ((hexCellsExist_iff s _).mp hcells)
  have hwritten := writePair_isSome (hexHigh v) (hexLow v) (inv.render_written hp)
  rcases renderByte_cases v s with ⟨hend, e⟩ | ⟨hmore, e⟩ <;> rw [e]
  · exact StoredInv.of_idle { inv with hexo_wf := hwf, hexo_range := hrange } rfl rfl hr
      fun _ p hlt => hwritten p (hend ▸ hlt)
  · obtain ⟨n, hn⟩ := inv.render_hlen_even hp
    have hne : s.ph ≠ .idle := by simp [hp]
    refine StoredInv.of_render { inv with hexo_wf := hwf, hexo_range := hrange } hp (inv.busy_of_ne_idle hne)
      (inv.not_hexv_of_ne_idle hne) hr ?_ (inv.render_digest hp) (inv.render_message hp) ?_
    · show 2 * (s.hcnt + 1).toNat < s.hlen.toNat
      omega
    · exact fun p hlt => hwritten p (hsucc ▸ hlt)

theorem BlockInv.rstep {s t : State} (inv : BlockInv s) (hp : s.ph = .render) (h : execRstep s = .next t) :
    BlockInv t := by
  obtain ⟨v, -, hcells, rfl⟩ := of_execRstep_next h
  exact inv.renderByte hp hcells v

/-- A turn of the core keeps the invariant, in every phase. -/
theorem BlockInv.coreTurn {s t : State} (inv : BlockInv s) (h : coreTurn s = .next t) : BlockInv t := by
  have hturn := h
  rw [coreTurn_eq] at h
  split at h
  · cases h
    exact inv
  · next hp => exact inv.loadblk hp h
  · next hp => exact inv.copyin hp h
  · next hp =>
    rw [coreTurn_round hp] at hturn
    cases hturn
    exact inv.round hp _
  · next hp => exact inv.addback hp h
  · next hp => exact inv.serial hp h
  · next hp => exact inv.rstep hp h

/-- A turn of either agent keeps the invariant. -/
theorem BlockInv.takeEvent {s t : State} (inv : BlockInv s) (e : Event) (h : takeEvent e s = .next t) : BlockInv t := by
  rcases takeEvent_cases e s with ⟨-, he⟩ | ⟨r, -, hw, he⟩ | ⟨-, he⟩ | ⟨-, -, v, n, f, g, he⟩ <;> rw [he] at h
  · exact inv.coreTurn h
  · exact inv.hostWrite hw h
  · cases h
    exact resetBlock_inv s
  · cases h
    exact inv.ownFields v n f g s.inbox

/-- Settles O52: the step is a turn of the core, or the turn at the head of the inbox once that is taken off. -/
theorem stepKeepsInvariant : Obligations.StepKeepsInvariant := by
  intro s t inv h
  cases hin : s.inbox with
  | nil =>
    rw [step_core hin] at h
    exact inv.coreTurn h
  | cons e rest =>
    rw [step_event hin] at h
    exact (inv.ownFields s.rdata s.draws s.fOut s.gOut rest).takeEvent e h

end Sys2Proof.Machine

namespace Sys2Proof.Machine

/-! ### Which operation writes which state (R37) -/

theorem RoundOp.exists_operand {i f g r} (op : RoundOp i f g r) :
    ∃ j, i = .roundFF j ∨ i = .roundGG j ∨ i = .roundHH j ∨ i = .roundII j := by
  cases op with
  | ff j => exact ⟨j, .inl rfl⟩
  | gg j => exact ⟨j, .inr (.inl rfl)⟩
  | hh j => exact ⟨j, .inr (.inr (.inl rfl))⟩
  | ii j => exact ⟨j, .inr (.inr (.inr rfl))⟩

/-- The last round index is position 15 of quartile 3 (R84). -/
theorem roundIndex_eq_last : ∀ (q : BitVec 2) (j : BitVec 4), roundIndex q j = 63 → q = 3 ∧ j = 15 := by
  decide

/-- Only `ROUND.II` at position 15 is the last round (R161). -/
theorem RoundOp.eq_last {i f g r} (op : RoundOp i f g r) (hr : r = 63) : i = .roundII 15 := by
  cases op with
  | ff j => exact absurd (roundIndex_eq_last 0 j hr).1 (by decide)
  | gg j => exact absurd (roundIndex_eq_last 1 j hr).1 (by decide)
  | hh j => exact absurd (roundIndex_eq_last 2 j hr).1 (by decide)
  | ii j => rw [(roundIndex_eq_last 3 j hr).2]

/-- Settles O54, effect by effect: an unchanged field has nothing to show, and a changed one names its operation. -/
theorem whoWritesWhat : Obligations.WhoWritesWhat := by
  intro i s t h hne
  cases exec_effect h with
  | dropped => simp
  | refused hw => simp [hw]
  | accepted hopen free acc =>
    rcases acc with ⟨rfl, -, -, rfl⟩ | ⟨rfl, -, rfl⟩ | ⟨rfl, -, rfl⟩ | ⟨d, rfl, rfl⟩ | ⟨a, v, rfl, -, rfl⟩
    · simp
    · simp
    · unfold beginRenderMsg
      split <;> simp
    · simp [hopen, free]
    · simp [hopen, free]
  | hostRead => simp
  | selector => simp
  | loadblk => simp
  | copyin => simp
  | @round i f g r op =>
    have hop := op.exists_operand
    unfold runRound
    rcases advanceRound_cases r { s with w := roundMoves s.m (f s.w.b s.w.c s.w.d) (g r) r s.w } with
      ⟨hr, e⟩ | ⟨-, e⟩ <;> rw [e]
    · simp [op.eq_last hr]
    · simp [hop]
  | addback => simp
  | serial => simp
  | rstep v =>
    rcases renderByte_cases v s with ⟨-, e⟩ | ⟨-, e⟩ <;> rw [e] <;> simp
  | reset => exact absurd rfl hne

end Sys2Proof.Machine

namespace Sys2Proof.Machine

/-! ### The dead registers are never observed -/

/-- `s` with other values in the registers `sameLive` lets differ. -/
def withDead (s : State) (h w : Quad) (m : Vector Word 16) (f : Word) : State :=
  { s with h := h, w := w, m := m, fOut := f }

theorem sameLive.exists_withDead {s t : State} (hst : sameLive s t) :
    ∃ h w m f, t = withDead s h w m f :=
  ⟨t.h, t.w, t.m, t.fOut, hst.1⟩

/-- While no digest is computed all three registers are dead, whatever they hold. -/
theorem sameLive_withDead {s : State} (hp : s.ph = .idle ∨ s.ph = .render) (h w : Quad) (m : Vector Word 16)
    (f : Word) : sameLive s (withDead s h w m f) := by
  rcases hp with hp | hp <;> exact ⟨rfl, by simp [hp], by simp [hp], by simp [hp]⟩

/-- A render step reads and writes no dead register. -/
theorem renderByte_withDead (v : Byte) (s : State) (h w : Quad) (m : Vector Word 16) (f : Word) :
    renderByte v (withDead s h w m f) = withDead (renderByte v s) h w m f := by
  unfold renderByte withDead
  dsimp only
  split <;> rfl

section
variable {s t : State} (hst : sameLive s t)
include hst

theorem sameLive.ph_eq : t.ph = s.ph := by rw [hst.1]
theorem sameLive.rnd_eq : t.rnd = s.rnd := by rw [hst.1]
theorem sameLive.err_eq : t.err = s.err := by rw [hst.1]
theorem sameLive.busy_eq : t.busy = s.busy := by rw [hst.1]
theorem sameLive.done_eq : t.done = s.done := by rw [hst.1]
theorem sameLive.len_eq : t.len = s.len := by rw [hst.1]
theorem sameLive.cap_eq : t.cap = s.cap := by rw [hst.1]
theorem sameLive.inbox_eq : t.inbox = s.inbox := by rw [hst.1]

theorem sameLive.blockExists_eq : blockExists t = blockExists s := by rw [hst.1]; rfl
theorem sameLive.blockWritten_eq : blockWritten t = blockWritten s := by rw [hst.1]; rfl
theorem sameLive.hexCellsExist_eq : hexCellsExist t t.hcnt.toNat = hexCellsExist s s.hcnt.toNat := by rw [hst.1]; rfl
theorem sameLive.rstepSource_eq : rstepSource t = rstepSource s := by rw [hst.1]; rfl

theorem sameLive.h_eq (hi : s.ph ≠ .idle) (hr : s.ph ≠ .render) : t.h = s.h :=
  have ⟨_, hh, _, _⟩ := hst
  hh ⟨hi, hr⟩

theorem sameLive.w_eq (hp : s.ph = .round ∨ s.ph = .addback) : t.w = s.w :=
  have ⟨_, _, hw, _⟩ := hst
  hw hp

theorem sameLive.m_eq (hp : s.ph = .copy ∨ s.ph = .round) : t.m = s.m :=
  have ⟨_, _, _, hm⟩ := hst
  hm hp

/-! The host's operations: none reads a dead register. -/

theorem sameLive.raiseRefusal (c : Cause) : sameLive (raiseRefusal c s) (raiseRefusal c t) := by
  obtain ⟨h, w, m, f, rfl⟩ := hst.exists_withDead
  exact ⟨rfl, hst.2⟩

theorem sameLive.popInbox (es : List Event) : sameLive { s with inbox := es } { t with inbox := es } := by
  obtain ⟨h, w, m, f, rfl⟩ := hst.exists_withDead
  exact ⟨rfl, hst.2⟩

theorem sameLive.returnValue (v : DWord) : sameLive (returnValue v s) (returnValue v t) := by
  obtain ⟨h, w, m, f, rfl⟩ := hst.exists_withDead
  exact ⟨rfl, hst.2⟩

theorem sameLive.returnDraw : sameLive (returnDraw s) (returnDraw t) := by
  obtain ⟨h, w, m, f, rfl⟩ := hst.exists_withDead
  exact ⟨rfl, hst.2⟩

theorem sameLive.returnByte (b : Option Byte) : sameLive (returnByte b s) (returnByte b t) := by
  cases b with
  | none => exact hst.returnDraw
  | some v => exact hst.returnValue _

/-- The write gate reads no dead register: two accepted states that are related leave related states. -/
theorem sameLive.writeGate {u v : State} (huv : sameLive u v) : sameLive (writeGate s u) (writeGate t v) := by
  simp only [Machine.writeGate, hst.err_eq, hst.busy_eq]
  split
  · exact hst
  · split
    · exact hst.raiseRefusal _
    · exact huv

/-- `START` writes `IV` into `H` before any step reads it (R182). -/
theorem sameLive.beginDigest : sameLive (beginDigest s) (beginDigest t) := by
  obtain ⟨h, w, m, f, rfl⟩ := hst.exists_withDead
  exact ⟨rfl, fun _ => rfl, by simp, by simp⟩

theorem sameLive.beginRenderDig : sameLive (beginRenderDig s) (beginRenderDig t) := by
  obtain ⟨h, w, m, f, rfl⟩ := hst.exists_withDead
  exact sameLive_withDead (.inr rfl) h w m f

theorem sameLive.beginRenderMsg : sameLive (beginRenderMsg s) (beginRenderMsg t) := by
  unfold Machine.beginRenderMsg
  rw [hst.len_eq]
  obtain ⟨h, w, m, f, rfl⟩ := hst.exists_withDead
  split
  · exact ⟨rfl, hst.2⟩
  · exact sameLive_withDead (.inr rfl) h w m f

theorem sameLive.hostWrite {i : Instr} (hi : isHostWrite i = true) : sameEnd sameLive (exec i s) (exec i t) := by
  cases i with
  | start =>
    refine hst.writeGate ?_
    rw [hst.len_eq, hst.cap_eq]
    split
    · exact hst.raiseRefusal _
    · split
      · exact hst.raiseRefusal _
      · exact hst.beginDigest
  | renderDig =>
    refine hst.writeGate ?_
    rw [hst.done_eq]
    split
    · exact hst.beginRenderDig
    · exact hst.raiseRefusal _
  | renderMsg =>
    refine hst.writeGate ?_
    rw [hst.len_eq, hst.cap_eq]
    split
    · exact hst.raiseRefusal _
    · exact hst.beginRenderMsg
  | hwrRegLen d =>
    refine hst.writeGate ?_
    obtain ⟨h, w, m, f, rfl⟩ := hst.exists_withDead
    exact ⟨rfl, hst.2⟩
  | hwrMsg a v =>
    refine hst.writeGate ?_
    rw [hst.cap_eq]
    split
    · obtain ⟨h, w, m, f, rfl⟩ := hst.exists_withDead
      exact ⟨rfl, hst.2⟩
    · exact hst.raiseRefusal _
  | hwrRegCmdIllegal | hwrReg | hwrDig | hwrHexo => exact hst.writeGate (hst.raiseRefusal _)
  | _ => cases hi

theorem sameLive.hostRead {i : Instr} (hi : isHostRead i = true) : sameEnd sameLive (exec i s) (exec i t) := by
  obtain ⟨h, w, m, f, rfl⟩ := hst.exists_withDead
  cases i with
  | hrdReg a => exact hst.returnValue _
  | hrdMsg | hrdDig | hrdHexo => exact hst.returnByte _
  | _ => cases hi

/-- A mix formula reads `W`, which may be dead, and delivers to `fOut`, which nothing reads (log 7). -/
theorem sameLive.mix (q : BitVec 2) : sameEnd sameLive (exec (decodeMix q) s) (exec (decodeMix q) t) := by
  obtain ⟨h, w, m, f, rfl⟩ := hst.exists_withDead
  unfold decodeMix
  split <;> exact ⟨rfl, hst.2⟩

theorem sameLive.widx (q : BitVec 2) : sameEnd sameLive (exec (decodeWidx q) s) (exec (decodeWidx q) t) := by
  obtain ⟨h, w, m, f, rfl⟩ := hst.exists_withDead
  unfold decodeWidx
  split <;> exact ⟨rfl, hst.2⟩

theorem sameLive.resetBlock : sameLive (resetBlock s) (resetBlock t) := by
  obtain ⟨h, w, m, f, rfl⟩ := hst.exists_withDead
  exact ⟨rfl, fun _ => rfl, fun _ => rfl, fun _ => rfl⟩

/-! The micro-operations: each reads only registers that are live in its phase. -/

/-- `LOADBLK` writes the whole of `M` (R135). -/
theorem sameLive.loadblk (hp : s.ph = .load) : sameEnd sameLive (execLoadblk s) (execLoadblk t) := by
  have hlive := hst.h_eq (by simp [hp]) (by simp [hp])
  unfold execLoadblk
  rw [hst.blockExists_eq, hst.blockWritten_eq]
  split
  · split
    · obtain ⟨h, w, m, f, rfl⟩ := hst.exists_withDead
      exact ⟨rfl, fun _ => hlive, by simp, fun _ => rfl⟩
    · rfl
  · rfl

/-- `COPYIN` writes the whole of `W`, from `H`, which is live (R154). -/
theorem sameLive.copyin (hp : s.ph = .copy) : sameEnd sameLive (execCopyin s) (execCopyin t) := by
  have hh := hst.h_eq (by simp [hp]) (by simp [hp])
  have hm := hst.m_eq (.inl hp)
  obtain ⟨h, w, m, f, rfl⟩ := hst.exists_withDead
  exact ⟨rfl, fun _ => hh, fun _ => hh, fun _ => hm⟩

/-- In a round every register is live, so the two blocks differ in `fOut` only. -/
theorem sameLive.round (hp : s.ph = .round) : sameEnd sameLive (coreTurn s) (coreTurn t) := by
  have hh := hst.h_eq (by simp [hp]) (by simp [hp])
  have hw := hst.w_eq (.inl hp)
  have hm := hst.m_eq (.inr hp)
  have heq : roundEquation t.m s.rnd t.w = roundEquation s.m s.rnd s.w := by rw [hw, hm]
  rw [coreTurn_round hp, coreTurn_round (hst.ph_eq.trans hp), hst.rnd_eq, heq]
  obtain ⟨h, w, m, f, rfl⟩ := hst.exists_withDead
  unfold advanceRound
  split <;> exact ⟨rfl, fun _ => hh, fun _ => rfl, fun _ => hm⟩

/-- `ADDBACK` reads `H` and `W`, which are live, and leaves `W` and `M` dead (R159). -/
theorem sameLive.addback (hp : s.ph = .addback) : sameEnd sameLive (execAddback s) (execAddback t) := by
  have hh := hst.h_eq (by simp [hp]) (by simp [hp])
  have hw := hst.w_eq (.inr hp)
  obtain ⟨h, w, m, f, rfl⟩ := hst.exists_withDead
  obtain rfl : h = s.h := hh
  obtain rfl : w = s.w := hw
  refine ⟨rfl, fun _ => rfl, fun _ => rfl, ?_⟩
  dsimp only
  split <;> simp

/-- `SERIAL` reads `H`, which is live, and leaves it dead (R186). -/
theorem sameLive.serial (hp : s.ph = .serial) : sameEnd sameLive (execSerial s) (execSerial t) := by
  have hh := hst.h_eq (by simp [hp]) (by simp [hp])
  obtain ⟨h, w, m, f, rfl⟩ := hst.exists_withDead
  obtain rfl : h = s.h := hh
  exact ⟨rfl, by simp, by simp, by simp⟩

theorem sameLive.renderByte (hp : s.ph = .render) (v : Byte) : sameLive (renderByte v s) (renderByte v t) := by
  obtain ⟨h, w, m, f, rfl⟩ := hst.exists_withDead
  rw [renderByte_withDead]
  refine sameLive_withDead ?_ h w m f
  rcases renderByte_cases v s with ⟨-, e⟩ | ⟨-, e⟩ <;> rw [e]
  · exact .inl rfl
  · exact .inr hp

theorem sameLive.rstep (hp : s.ph = .render) : sameEnd sameLive (execRstep s) (execRstep t) := by
  unfold execRstep
  rw [hst.rstepSource_eq, hst.hexCellsExist_eq]
  split
  · rfl
  · split
    · exact hst.renderByte hp _
    · rfl

theorem sameLive.coreTurn : sameEnd sameLive (coreTurn s) (coreTurn t) := by
  by_cases hr : s.ph = .round
  · exact hst.round hr
  · rw [coreTurn_eq, coreTurn_eq, hst.ph_eq]
    split
    · exact hst
    · next hp => exact hst.loadblk hp
    · next hp => exact hst.copyin hp
    · next hp => exact absurd hp hr
    · next hp => exact hst.addback hp
    · next hp => exact hst.serial hp
    · next hp => exact hst.rstep hp

theorem sameLive.takeEvent (e : Event) : sameEnd sameLive (takeEvent e s) (takeEvent e t) := by
  cases e with
  | core => exact hst.coreTurn
  | ht r =>
    rcases decodeHT_host r with hi | hi
    · exact hst.hostWrite hi
    · exact hst.hostRead hi
  | sig rst =>
    by_cases hrst : rst = 1#1
    · subst hrst
      exact hst.resetBlock
    · have hstay : ∀ u, Machine.takeEvent (.sig rst) u = .next u := by simp [Machine.takeEvent, decodeSIG, hrst]
      rw [hstay, hstay]
      exact hst
  | mix q => exact hst.mix q
  | widx q => exact hst.widx q

end

/-- Settles O55: related states have one inbox, so they take the same turn, and every turn keeps the relation. -/
theorem deadRegistersAreNeverObserved : Obligations.DeadRegistersAreNeverObserved := by
  intro s t hst
  cases hin : s.inbox with
  | nil =>
    rw [step_core hin, step_core (hst.inbox_eq.trans hin)]
    exact hst.coreTurn
  | cons e rest =>
    rw [step_event hin, step_event (hst.inbox_eq.trans hin)]
    exact (hst.popInbox rest).takeEvent e

end Sys2Proof.Machine

namespace Sys2Proof.Machine

/-! ### The tables and the reset values -/

/-- Every shift amount of the table lies within the range in which `ROTL` is defined (R111, R152). -/
theorem sTable_bounds :
    ∀ q < 4, ∀ j < 4, 1 ≤ (sTable.getD q []).getD j 0 ∧ (sTable.getD q []).getD j 0 ≤ 31 := by
  decide

/-- The shift amount of a round depends on its quartile and on `i mod 4` (R152). -/
theorem sRom_of_quartile {i : Round} {q : Nat} (h : i.toNat / 16 = q) :
    sRom i = (sTable.getD q []).getD (i.toNat % 4) 0 := by
  subst h
  rfl

/-- Settles O12: each quartile selects its row of the table, and the sixteen entries are bounded. -/
theorem shiftAmounts : Obligations.ShiftAmounts := by
  intro i
  have hi : i.toNat < 64 := i.isLt
  obtain ⟨hlow, hhigh⟩ := sTable_bounds (i.toNat / 16) (by omega) (i.toNat % 4) (by omega)
  exact ⟨hlow, hhigh, fun h => sRom_of_quartile (q := 0) (by omega),
    fun h h' => sRom_of_quartile (q := 1) (by omega), fun h h' => sRom_of_quartile (q := 2) (by omega),
    fun h => sRom_of_quartile (q := 3) (by omega)⟩

/-- Every round index is an index of the constant table, so `K[i]` is never the default value (R151). -/
theorem some_kRom (i : Round) : some (kRom i) = kTable[i.toNat]? := by
  have hi : i.toNat < kTable.length := i.isLt
  simp [kRom, List.getD, hi]

/-- Settles O58: the printed table is `kTable`, read inside its sixty-four entries. -/
theorem roundConstantTable : Obligations.RoundConstantTable :=
  fun i => some_kRom i

/-- Settles O49: `State.reset` gives each register its value, and both memories list no cell. -/
theorem resetValues : Obligations.ResetValues :=
  ⟨rfl, rfl, rfl, rfl, rfl, rfl, rfl, rfl, rfl, rfl, rfl, rfl, rfl, fun a => ⟨memRead_nil a, memRead_nil a⟩⟩

end Sys2Proof.Machine

namespace Sys2Proof.Machine

/-! ### The length field in block words (R58) -/

/-- A little-endian word is the sum of its bytes at their places (R57, R153). -/
theorem le32_toNat (b0 b1 b2 b3 : Byte) :
    (le32 b0 b1 b2 b3).toNat = b0.toNat + b1.toNat * 2 ^ 8 + b2.toNat * 2 ^ 16 + b3.toNat * 2 ^ 24 := by
  have h0 := b0.isLt
  have h1 := b1.isLt
  have h2 := b2.isLt
  simp only [le32, BitVec.toNat_cast, BitVec.toNat_append]
  rw [← Nat.shiftLeft_add_eq_or_of_lt h2, ← Nat.shiftLeft_add_eq_or_of_lt h1, ← Nat.shiftLeft_add_eq_or_of_lt h0]
  simp only [Nat.shiftLeft_eq]
  omega

/-- Byte `k` of the length field is digit `k` of `8 * l` to the base 256 (R133). -/
theorem lengthByte_toNat (l k : Nat) : (lengthByte l k).toNat = 8 * l / 2 ^ (8 * k) % 256 := by
  simp [lengthByte, bitlen]

/-- The last eight bytes of the padded message are the length field (R133). -/
theorem padByte_lengthField (l : Nat) (msg : Nat → Byte) (k : Nat) :
    padByte l msg (plen l - 8 + k) = lengthByte l k := by
  have hroom : l + 1 ≤ plen l - 8 := by
    unfold plen
    omega
  simp [padByte, show ¬ plen l - 8 + k < l by omega, show plen l - 8 + k ≠ l by omega]

/-- Four bytes of the length field read as a word are 32 bits of `8 * l`, from the first of them on. -/
theorem memReadWord_lengthField (l : Nat) (msg : Nat → Byte) (k : Nat) :
    (memReadWord (padByte l msg) (plen l - 8 + k)).toNat = 8 * l / 2 ^ (8 * k) % 2 ^ 32 := by
  have hdigit : ∀ j, 8 * l / 2 ^ (8 * (k + j)) = 8 * l / 2 ^ (8 * k) / 2 ^ (8 * j) := fun j => by
    rw [Nat.div_div_eq_div_mul, ← pow_add, Nat.mul_add]
  simp only [memReadWord, Nat.add_assoc (plen l - 8) k, padByte_lengthField, le32_toNat, lengthByte_toNat, hdigit]
  omega

/-- The last block ends where the padded message does, so its words 14 and 15 are the length field (R58, R131). -/
theorem blockWords_last (l : Nat) (msg : Nat → Byte) {t : Nat} (ht : t < 16) (h : 14 ≤ t) :
    (blockWords l msg (nblk l - 1))[t] = memReadWord (padByte l msg) (plen l - 8 + 4 * (t - 14)) := by
  have haddr : 64 * (nblk l - 1) + 4 * t = plen l - 8 + 4 * (t - 14) := by
    unfold nblk plen
    omega
  simp [blockWords, haddr]

/-- Settles O16: words 14 and 15 of the last block are the two halves of the length field, which holds `8 * l` whole. -/
theorem lengthFieldLittleEndian : Obligations.LengthFieldLittleEndian := by
  intro l msg hl
  refine ⟨fun k _ => ?_, ?_, ?_⟩
  · rw [padByte_lengthField, lengthByte_toNat]
  · rw [blockWords_last l msg (by decide) (by decide), memReadWord_lengthField]
    simp
  · rw [blockWords_last l msg (by decide) (by decide), memReadWord_lengthField]
    omega

end Sys2Proof.Machine

namespace Sys2Proof.Machine

/-! ### The turns of a step (R69, R183) -/

theorem coreTurn_of_decodeSQ {i : Instr} {s : State} (h : decodeSQ (sqWord s) = .ok i) : coreTurn s = exec i s := by
  simp [coreTurn, h]

theorem coreTurn_idle {s : State} (h : s.ph = .idle) : coreTurn s = .next s := by
  simp [coreTurn_eq, h]

/-- A turn of the core that completes left the state alone or ran the operation the sequencer word selects (R183). -/
theorem of_coreTurn_next {s t : State} (h : coreTurn s = .next t) :
    t = s ∨ ∃ i, decodeSQ (sqWord s) = .ok i ∧ exec i s = .next t := by
  cases hw : decodeSQ (sqWord s) with
  | ok i => exact .inr ⟨i, rfl, coreTurn_of_decodeSQ hw ▸ h⟩
  | error r =>
    simp only [coreTurn, hw] at h
    cases h
    exact .inl rfl

/-- No sequencer word is the reset input (R83). -/
theorem decodeSQ_ne_reset (w : BitVec 9) : decodeSQ w ≠ .ok .reset := by
  unfold decodeSQ
  split
  case h_4 =>
    unfold decodeRound
    split <;> simp
  all_goals simp

/-- Settles O6: the head of the inbox is taken first, and a turn of the core runs what its sequencer word selects. -/
theorem stepRunsTheNextTurn : Obligations.StepRunsTheNextTurn := fun _ _ =>
  ⟨fun _ => step_event, step_event, step_event, fun _ => step_event, fun _ => step_event,
    fun _ hin hword => (step_event hin).trans (coreTurn_of_decodeSQ hword),
    fun hin hidle => (step_event hin).trans (coreTurn_idle hidle),
    fun _ hin hword => (step_core hin).trans (coreTurn_of_decodeSQ hword),
    fun hin hidle => (step_core hin).trans (coreTurn_idle hidle)⟩

end Sys2Proof.Machine

namespace Sys2Proof.Machine

/-! ### What a host read and a busy block leave alone (R66, R70) -/

/-- A read that returns a byte changes the model's `rdata` and `draws` at most, and takes back no free value (log 5). -/
theorem next_returnByte (b : Option Byte) (s : State) :
    ∃ v n, (.next (returnByte b s) : Result) = .next { s with rdata := v, draws := n } ∧ s.draws ≤ n := by
  refine ⟨_, _, congrArg _ (returnByte_eq b s), ?_⟩
  cases b <;> simp

/-- Settles O41: a register read draws nothing, and the reads of the other three spaces return a byte. -/
theorem readsChangeNothing : Obligations.ReadsChangeNothing := by
  intro i s hi
  cases i
  case hrdReg addr => exact ⟨regValue s addr, s.draws, rfl, le_rfl⟩
  case hrdMsg addr => exact next_returnByte (msgCell s addr.toNat) s
  case hrdDig addr => exact next_returnByte (validDig s addr) s
  case hrdHexo addr => exact next_returnByte (validHexo s addr) s
  all_goals cases hi

/-- An operation other than `RESET` writes neither the message memory nor `LEN` of a busy block: their only writers need
an open block. -/
theorem exec_busy_keeps_message {i : Instr} {s t : State} (hb : s.busy = true) (hi : i ≠ .reset)
    (h : exec i s = .next t) : t.msg = s.msg ∧ t.len = s.len := by
  obtain ⟨-, -, -, -, -, hmsg, hlen, -⟩ := whoWritesWhat i s t h hi
  constructor <;> by_contra hne
  · obtain ⟨-, hfree, -⟩ := hmsg hne
    simp [hb] at hfree
  · obtain ⟨-, hfree, -⟩ := hlen hne
    simp [hb] at hfree

theorem coreTurn_busy_keeps_message {s t : State} (hb : s.busy = true) (h : coreTurn s = .next t) :
    t.msg = s.msg ∧ t.len = s.len := by
  rcases of_coreTurn_next h with rfl | ⟨i, hw, hi⟩
  · exact ⟨rfl, rfl⟩
  · exact exec_busy_keeps_message hb (fun hreset => decodeSQ_ne_reset _ (hreset ▸ hw)) hi

theorem takeEvent_busy_keeps_message {e : Event} {s t : State} (hb : s.busy = true) (he : e ≠ .sig 1)
    (h : takeEvent e s = .next t) : t.msg = s.msg ∧ t.len = s.len := by
  rcases takeEvent_cases e s with ⟨-, hturn⟩ | ⟨r, -, hw, hturn⟩ | ⟨hsig, -⟩ | ⟨-, -, v, n, f, g, hturn⟩
  · exact coreTurn_busy_keeps_message hb (hturn ▸ h)
  · have hne : decodeHT r ≠ .reset := fun hreset => by simp [hreset, isHostWrite] at hw
    exact exec_busy_keeps_message hb hne (hturn ▸ h)
  · exact absurd hsig he
  · rw [hturn] at h
    cases h
    exact ⟨rfl, rfl⟩

/-- Settles O56: the step is a turn of the core, or the turn at the head of the inbox once that is taken off. -/
theorem messageIsBorrowedReadOnly : Obligations.MessageIsBorrowedReadOnly := by
  intro s t hb h hreset
  cases hin : s.inbox with
  | nil => exact coreTurn_busy_keeps_message hb (step_core hin ▸ h)
  | cons e rest =>
    have he : e ≠ .sig 1 := fun heq => hreset rest (heq ▸ hin)
    rw [step_event hin] at h
    exact takeEvent_busy_keeps_message (s := { s with inbox := rest }) hb he h

end Sys2Proof.Machine

namespace Sys2Proof.Machine

/-! ### Decoding the words of the encoder (R81 to R84, R91) -/

theorem decode_ht (r : Record) : decode .ht r.toNat = .ok (decodeHT r) := by
  have hr : r.toNat < 2 ^ Format.ht.bits := r.isLt
  simp [decode, hr]

theorem decode_sq (w : BitVec 9) : decode .sq w.toNat = decodeSQ w := by
  have hw : w.toNat < 2 ^ Format.sq.bits := w.isLt
  simp [decode, hw]

/-- A host transaction's word decodes as its three fields do (R81). -/
theorem decode_encodeHT (hdr : BitVec 3) (addr data : DWord) :
    decode (encodeHT hdr addr data).format (encodeHT hdr addr data).word = .ok (decodeFields hdr addr data) :=
  (decode_ht _).trans (congrArg _ (decodeHT_htRecord hdr addr data))

theorem decode_encodeSQ (ph : BitVec 3) (q : BitVec 2) (j : BitVec 4) :
    decode (encodeSQ ph q j).format (encodeSQ ph q j).word = decodeSQ (sqRecord ph q j) :=
  decode_sq _

/-- In the phase `ROUND` the two parts of `RND` select the round (R83, R84). -/
theorem decodeSQ_sqRecord_round (q : BitVec 2) (j : BitVec 4) :
    decodeSQ (sqRecord 3 q j) = .ok (decodeRound q j) := by
  rw [decodeSQ, sqRecord_phase, sqRecord_quartile, sqRecord_position]
  rfl

/-- A write of register 0 is the command of the low byte of its data (R82). -/
theorem decodeFields_command (data : DWord) : decodeFields 4 0 data = decodeCW (data.truncate 8) := rfl

/-- A write of any register but `CMD` and `LEN` is the catch-all row (R91). -/
theorem decodeFields_register {addr : DWord} (h : writableRegister addr = false) (data : DWord) :
    decodeFields 4 addr data = .hwrReg addr data := by
  simp_all [decodeFields, writableRegister]

/-- A write of a message byte takes the low byte of its data (R81). -/
theorem decodeFields_message (addr data : DWord) : decodeFields 5 addr data = .hwrMsg addr (data.truncate 8) := rfl

/-- A command word that is none of the three legal ones is the illegal command (R82, R93). -/
theorem decodeCW_illegal {cw : Byte} (h : legalCommand cw = false) : decodeCW cw = .hwrRegCmdIllegal cw := by
  simp_all [decodeCW, legalCommand]

/-- Settles O1: the decoder takes the fields of an encoded word apart again, and the two catch-all rows are well formed
only where no row above takes them. -/
theorem decodeInvertsEncode : Obligations.DecodeInvertsEncode := by
  intro i hwf
  cases i
  case hwrRegCmdIllegal cw =>
    have hcw : legalCommand cw = false := by simpa [WellFormed] using hwf
    rw [encode, decode_encodeHT, decodeFields_command]
    simp [decodeCW_illegal hcw]
  case hwrReg addr data =>
    have haddr : writableRegister addr = false := by simpa [WellFormed] using hwf
    rw [encode, decode_encodeHT, decodeFields_register haddr]
  case hwrMsg addr value =>
    rw [encode, decode_encodeHT, decodeFields_message]
    simp
  case start | renderDig | renderMsg | hwrRegLen | hwrDig | hwrHexo | hrdReg | hrdMsg | hrdDig | hrdHexo =>
    exact decode_encodeHT _ _ _
  case roundFF j | roundGG j | roundHH j | roundII j =>
    exact (decode_encodeSQ _ _ j).trans (decodeSQ_sqRecord_round _ j)
  case loadblk | copyin | addback | serial | rstep => exact decode_encodeSQ _ _ _
  case mixF | mixG | mixH | mixI | widx0 | widx1 | widx2 | widx3 | reset => rfl

end Sys2Proof.Machine

namespace Sys2Proof.Machine

/-! ### Every host transaction is an operation (R81, R91) -/

theorem wellFormed_decodeCW (cw : Byte) : WellFormed (decodeCW cw) = true := by
  cases h : legalCommand cw with
  | false => simp [decodeCW_illegal h, WellFormed, h]
  | true =>
    have hlegal : (cw = 0x01 ∨ cw = 0x02) ∨ cw = 0x0A := by simpa [legalCommand] using h
    rcases hlegal with (rfl | rfl) | rfl <;> rfl

theorem wellFormed_decodeFields (hdr : BitVec 3) (addr data : DWord) :
    WellFormed (decodeFields hdr addr data) = true := by
  unfold decodeFields
  split
  case h_5 =>
    split
    · exact wellFormed_decodeCW _
    · split
      · rfl
      · simp_all [WellFormed, writableRegister]
  all_goals rfl

/-- Settles O2: only a register write has conditions on its fields, and its rows leave no field out. -/
theorem everyRecordIsAnOperation : Obligations.EveryRecordIsAnOperation := fun r =>
  ⟨wellFormed_decodeFields (htHdr r) (htAddr r) (htData r), decode_ht r, decodeHT_host r⟩

end Sys2Proof.Machine

namespace Sys2Proof.Machine

/-! ### The rows of the opcode table as conditions on the fields (R91) -/

/-- A record as a number: each field at its place (R81). -/
theorem htRecord_toNat (hdr : BitVec 3) (addr data : DWord) :
    (htRecord hdr addr data).toNat = hdr.toNat * 2 ^ 128 + addr.toNat * 2 ^ 64 + data.toNat := by
  simp only [htRecord, BitVec.toNat_cast, BitVec.toNat_append]
  rw [← Nat.shiftLeft_add_eq_or_of_lt addr.isLt, ← Nat.shiftLeft_add_eq_or_of_lt data.isLt]
  simp only [Nat.shiftLeft_eq]
  omega

/-- A mask acts on each field apart. -/
theorem htRecord_and (hdr hdr' : BitVec 3) (addr addr' data data' : DWord) :
    htRecord hdr addr data &&& htRecord hdr' addr' data' = htRecord (hdr &&& hdr') (addr &&& addr') (data &&& data') := by
  simp only [htRecord, ← BitVec.and_append]
  rfl

/-- A record under a mask is a number when each masked field is the number's bits at the field's place. -/
theorem htRecord_and_eq_iff (hdr mhdr : BitVec 3) (addr maddr data mdata : DWord) (v : Nat) :
    (htRecord hdr addr data).toNat &&& (htRecord mhdr maddr mdata).toNat = v ↔
      (hdr &&& mhdr).toNat = v / 2 ^ 128 ∧ (addr &&& maddr).toNat = v / 2 ^ 64 % 2 ^ 64 ∧
      (data &&& mdata).toNat = v % 2 ^ 64 := by
  rw [← BitVec.toNat_and, htRecord_and, htRecord_toNat]
  have haddr := (addr &&& maddr).isLt
  have hdata := (data &&& mdata).isLt
  omega

/-- A row whose mask is the header matches by the header alone. -/
theorem hdrRow_iff (hdr : BitVec 3) (addr data : DWord) (v : Nat) :
    (htRecord hdr addr data).toNat &&& 0x700000000000000000000000000000000 = v ↔
      hdr.toNat = v / 2 ^ 128 ∧ 0 = v / 2 ^ 64 % 2 ^ 64 ∧ 0 = v % 2 ^ 64 := by
  have hmask : 0x700000000000000000000000000000000 = (htRecord (BitVec.allOnes 3) 0 0).toNat := by decide
  rw [hmask, htRecord_and_eq_iff, BitVec.and_allOnes]
  simp

/-- A row whose mask is the header and the address matches by these two. -/
theorem addrRow_iff (hdr : BitVec 3) (addr data : DWord) (v : Nat) :
    (htRecord hdr addr data).toNat &&& 0x7ffffffffffffffff0000000000000000 = v ↔
      hdr.toNat = v / 2 ^ 128 ∧ addr.toNat = v / 2 ^ 64 % 2 ^ 64 ∧ 0 = v % 2 ^ 64 := by
  have hmask : 0x7ffffffffffffffff0000000000000000 = (htRecord (BitVec.allOnes 3) (BitVec.allOnes 64) 0).toNat := by
    decide
  rw [hmask, htRecord_and_eq_iff, BitVec.and_allOnes, BitVec.and_allOnes]
  simp

/-- A row whose mask leaves out all of the data but its low byte matches by the header, the address and that byte. -/
theorem commandRow_iff (hdr : BitVec 3) (addr data : DWord) (v : Nat) :
    (htRecord hdr addr data).toNat &&& 0x7ffffffffffffffff00000000000000ff = v ↔
      hdr.toNat = v / 2 ^ 128 ∧ addr.toNat = v / 2 ^ 64 % 2 ^ 64 ∧ data.toNat % 256 = v % 2 ^ 64 := by
  have hmask : 0x7ffffffffffffffff00000000000000ff =
      (htRecord (BitVec.allOnes 3) (BitVec.allOnes 64) 0xff).toNat := by decide
  have hbyte : (data &&& 0xff).toNat = data.toNat % 256 := Nat.and_two_pow_sub_one_eq_mod data.toNat 8
  rw [hmask, htRecord_and_eq_iff, BitVec.and_allOnes, BitVec.and_allOnes, hbyte]

/-- The bits of a record from 64 on hold its address (R81). -/
theorem ofNat_htRecord_addr (hdr : BitVec 3) (addr data : DWord) :
    BitVec.ofNat 64 ((htRecord hdr addr data).toNat / 2 ^ 64) = addr := by
  apply BitVec.eq_of_toNat_eq
  rw [BitVec.toNat_ofNat, htRecord_toNat]
  omega

/-- The low 64 bits of a record are its data (R81). -/
theorem ofNat_htRecord_data (hdr : BitVec 3) (addr data : DWord) :
    BitVec.ofNat 64 (htRecord hdr addr data).toNat = data := by
  apply BitVec.eq_of_toNat_eq
  rw [BitVec.toNat_ofNat, htRecord_toNat]
  omega

/-- The low byte of a record is the low byte of its data (R81, R82). -/
theorem ofNat_htRecord_byte (hdr : BitVec 3) (addr data : DWord) :
    BitVec.ofNat 8 (htRecord hdr addr data).toNat = data.truncate 8 := by
  apply BitVec.eq_of_toNat_eq
  rw [BitVec.toNat_ofNat, htRecord_toNat, BitVec.truncate_eq_setWidth, BitVec.toNat_setWidth]
  omega

/-- The command of a data field, by the number its low byte is (R82). -/
theorem decodeCW_truncate (data : DWord) :
    decodeCW (data.truncate 8) =
      if data.toNat % 256 = 0x01 then .start
      else if data.toNat % 256 = 0x02 then .renderDig
      else if data.toNat % 256 = 0x0A then .renderMsg
      else .hwrRegCmdIllegal (data.truncate 8) := by
  simp [decodeCW, ← BitVec.toNat_inj]

/-- The fields decode by the first of the table's rows that takes them (R91). -/
theorem decodeFields_firstRow (hdr : BitVec 3) (addr data : DWord) :
    decodeFields hdr addr data =
      if hdr.toNat = 4 ∧ addr.toNat = 0 ∧ data.toNat % 256 = 0x01 then .start
      else if hdr.toNat = 4 ∧ addr.toNat = 0 ∧ data.toNat % 256 = 0x02 then .renderDig
      else if hdr.toNat = 4 ∧ addr.toNat = 0 ∧ data.toNat % 256 = 0x0A then .renderMsg
      else if hdr.toNat = 4 ∧ addr.toNat = 0 then .hwrRegCmdIllegal (data.truncate 8)
      else if hdr.toNat = 4 ∧ addr.toNat = 2 then .hwrRegLen data
      else if hdr.toNat = 4 then .hwrReg addr data
      else if hdr.toNat = 5 then .hwrMsg addr (data.truncate 8)
      else if hdr.toNat = 6 then .hwrDig addr data
      else if hdr.toNat = 7 then .hwrHexo addr data
      else if hdr.toNat = 0 then .hrdReg addr
      else if hdr.toNat = 1 then .hrdMsg addr
      else if hdr.toNat = 2 then .hrdDig addr
      else .hrdHexo addr := by
  have hcases : hdr.toNat = 4 ∨ hdr.toNat = 0 ∨ hdr.toNat = 1 ∨ hdr.toNat = 2 ∨ hdr.toNat = 3 ∨ hdr.toNat = 5 ∨
      hdr.toNat = 6 ∨ hdr.toNat = 7 := by omega
  rcases hcases with h | h | h | h | h | h | h | h
  · by_cases h0 : addr = 0
    · simp [decodeFields, h, h0, decodeCW_truncate]
    · by_cases h2 : addr = 2
      · simp [decodeFields, h, h2]
      · simp_all [decodeFields, ← BitVec.toNat_inj]
  all_goals simp [decodeFields, h]

/-- Settles O3: each row's mask and match are the row's condition on the fields. -/
theorem firstMatchingRowDecodes : Obligations.FirstMatchingRowDecodes := by
  intro r
  rw [← htRecord_fields r, decodeHT_htRecord, decodeFields_firstRow]
  simp only [ofNat_htRecord_addr, ofNat_htRecord_data, ofNat_htRecord_byte, commandRow_iff, addrRow_iff, hdrRow_iff]
  simp

end Sys2Proof.Machine

namespace Sys2Proof.Machine

/-! ### The sequencer word (R83) -/

/-- A round index is its quartile in the high two bits and its position in the low four (R84). -/
theorem decodeRound_of_toNat {r : Round} {q : BitVec 2} {j : BitVec 4} (h : r.toNat = 16 * q.toNat + j.toNat) :
    decodeRound (r.extractLsb' 4 2) (r.extractLsb' 0 4) = decodeRound q j := by
  have hq : r.extractLsb' 4 2 = q := by
    apply BitVec.eq_of_toNat_eq
    rw [BitVec.extractLsb'_toNat, Nat.shiftRight_eq_div_pow, h]
    omega
  have hj : r.extractLsb' 0 4 = j := by
    apply BitVec.eq_of_toNat_eq
    rw [BitVec.extractLsb'_toNat, Nat.shiftRight_eq_div_pow, h]
    omega
  rw [hq, hj]

/-- In `ROUND` the sequencer word selects the kind of round of the quartile of `RND`, at its position (R83). -/
theorem decodeSQ_round {s : State} (hph : s.ph = .round) {q : BitVec 2} {j : BitVec 4}
    (h : s.rnd.toNat = 16 * q.toNat + j.toNat) : decodeSQ (sqWord s) = .ok (decodeRound q j) := by
  simp only [decodeSQ_sqWord, hph, decodeRound_of_toNat h]

/-- Settles O5: the phase selects the micro-operation, and in `ROUND` the quartile of `RND` selects the kind of round. -/
theorem sequencerWordSelects : Obligations.SequencerWordSelects := by
  intro s
  refine ⟨?_, ?_, ?_, fun hph j => ⟨fun h => ?_, decodeSQ_round hph (q := 1), decodeSQ_round hph (q := 2),
    decodeSQ_round hph (q := 3)⟩, ?_, ?_, ?_⟩
  case refine_4 => exact decodeSQ_round hph (q := 0) (by simpa using h)
  all_goals
    intro hph
    rw [decodeSQ_sqWord, hph]

/-- Settles O4: all but two of the words are the encoding of their operation; a command word alone and the phase
without a state are decoded. -/
theorem specWordsDecode : Obligations.SpecWordsDecode :=
  ⟨decodeInvertsEncode .start rfl, decodeInvertsEncode .renderMsg rfl, decodeInvertsEncode (.hwrRegLen 3) rfl,
    decodeInvertsEncode (.hwrMsg 1 0x62) rfl, decodeInvertsEncode (.hrdReg 3) rfl, decodeInvertsEncode (.hrdDig 15) rfl,
    decodeInvertsEncode (.hrdHexo 16) rfl, by decide, decodeInvertsEncode .loadblk rfl,
    decodeInvertsEncode (.roundGG 3) rfl, decodeInvertsEncode (.roundII 15) rfl, by decide,
    decodeInvertsEncode .mixH rfl, decodeInvertsEncode .widx3 rfl, decodeInvertsEncode .reset rfl⟩

end Sys2Proof.Machine

namespace Sys2Proof.Machine

/-! ### The primitives of the word (R110, R111, R119) -/

/-- On the domain of `ROTL` the document's formula is the circular rotation (R111). -/
theorem rotl_eq_rotateLeft {n : Nat} (h : n < 32) (x : Word) : rotl x n = x.rotateLeft n :=
  (BitVec.rotateLeft_eq_rotateLeftAux_of_lt h).symm

/-- Settles O10: a bit moves up by `n` while it stays in the word, and the others return at the low end. -/
theorem rotationMovesEveryBit : Obligations.RotationMovesEveryBit := by
  intro x n k hlow hhigh hk
  rw [rotl_eq_rotateLeft (by omega), BitVec.getLsbD_rotateLeft_of_le (by omega)]
  by_cases hin : k + n < 32
  · have hpos : (k + n) % 32 = k + n := Nat.mod_eq_of_lt hin
    simp [hpos, hin]
  · have hpos : (k + n) % 32 = k + n - 32 := by omega
    have hlt : k + n - 32 < n := by omega
    have hback : 32 - n + (k + n - 32) = k := by omega
    simp [hpos, hlt, hback]

/-- Settles O11: both operations are the library's on 32-bit words. -/
theorem wordArithmetic : Obligations.WordArithmetic := fun x y =>
  ⟨BitVec.toNat_add x y, BitVec.toNat_not⟩

/-! ### The mix functions bit by bit (R112 to R115) -/

theorem getLsbD_not32 {k : Nat} (hk : k < 32) (x : Word) : (not32 x).getLsbD k = !x.getLsbD k := by
  simp [not32, hk]

theorem getLsbD_mixF {k : Nat} (hk : k < 32) (b c d : Word) :
    (mixF b c d).getLsbD k = if b.getLsbD k then c.getLsbD k else d.getLsbD k := by
  rw [mixF, BitVec.getLsbD_or, BitVec.getLsbD_and, BitVec.getLsbD_and, getLsbD_not32 hk]
  cases b.getLsbD k <;> simp

/-- `MIX.G` is `MIX.F` with its operands turned: the `d` bit selects (R113). -/
theorem mixG_eq_mixF (b c d : Word) : mixG b c d = mixF d b c := by
  rw [mixG, mixF, BitVec.and_comm b d, BitVec.and_comm c]

theorem getLsbD_mixH (k : Nat) (b c d : Word) :
    (mixH b c d).getLsbD k = ((b.getLsbD k ^^ c.getLsbD k) ^^ d.getLsbD k) := by
  rw [mixH, BitVec.getLsbD_xor, BitVec.getLsbD_xor]

theorem getLsbD_mixI {k : Nat} (hk : k < 32) (b c d : Word) :
    (mixI b c d).getLsbD k = (c.getLsbD k ^^ (b.getLsbD k || !d.getLsbD k)) := by
  rw [mixI, BitVec.getLsbD_xor, BitVec.getLsbD_or, getLsbD_not32 hk]

/-- Settles O7: each row delivers its function of `WB`, `WC`, `WD`. -/
theorem mixRowsDeliver : Obligations.MixRowsDeliver := by
  intro s
  refine ⟨mixF s.w.b s.w.c s.w.d, mixG s.w.b s.w.c s.w.d, mixH s.w.b s.w.c s.w.d, mixI s.w.b s.w.c s.w.d,
    rfl, rfl, rfl, rfl, fun k hk => ⟨getLsbD_mixF hk _ _ _, ?_, getLsbD_mixH k _ _ _, getLsbD_mixI hk _ _ _⟩⟩
  rw [mixG_eq_mixF, getLsbD_mixF hk]

/-! ### The word index (R117) -/

/-- A remainder by 16 fits the word index, so it is delivered as it is. -/
theorem ofNat4_mod_toNat (n : Nat) : (BitVec.ofNat 4 (n % 16)).toNat = n % 16 :=
  Nat.mod_mod n 16

theorem widx0_toNat (i : Round) : (widx0 i).toNat = i.toNat % 16 := ofNat4_mod_toNat _

theorem widx1_toNat (i : Round) : (widx1 i).toNat = (5 * i.toNat + 1) % 16 := ofNat4_mod_toNat _

theorem widx2_toNat (i : Round) : (widx2 i).toNat = (3 * i.toNat + 5) % 16 := ofNat4_mod_toNat _

theorem widx3_toNat (i : Round) : (widx3 i).toNat = (7 * i.toNat) % 16 := ofNat4_mod_toNat _

/-- Settles O8: each row delivers its formula of `RND`. -/
theorem widxRowsDeliver : Obligations.WidxRowsDeliver := fun s =>
  ⟨widx0 s.rnd, widx1 s.rnd, widx2 s.rnd, widx3 s.rnd, rfl, widx0_toNat _, rfl, widx1_toNat _, rfl, widx2_toNat _,
    rfl, widx3_toNat _⟩

/-- The round index as a number: `i = 16*q + j` (R84). -/
theorem roundIndex_toNat (q : BitVec 2) (j : BitVec 4) : (roundIndex q j).toNat = 16 * q.toNat + j.toNat := by
  rw [roundIndex, BitVec.toNat_cast, BitVec.toNat_append, ← Nat.shiftLeft_add_eq_or_of_lt j.isLt, Nat.shiftLeft_eq,
    Nat.mul_comm]

theorem roundIndex_div (q : BitVec 2) (j : BitVec 4) : (roundIndex q j).toNat / 16 = q.toNat := by
  rw [roundIndex_toNat]
  omega

/-- Each quartile selects its formula (R117). -/
theorem widx_roundIndex (j : BitVec 4) :
    widx (roundIndex 0 j) = widx0 (roundIndex 0 j) ∧ widx (roundIndex 1 j) = widx1 (roundIndex 1 j) ∧
    widx (roundIndex 2 j) = widx2 (roundIndex 2 j) ∧ widx (roundIndex 3 j) = widx3 (roundIndex 3 j) := by
  simp only [widx, roundIndex_div]
  exact ⟨rfl, rfl, rfl, rfl⟩

/-- The word index of a round is the formula of its quartile on its position alone (R117). -/
theorem widx_roundIndex_toNat (j : BitVec 4) :
    (widx (roundIndex 0 j)).toNat = j.toNat ∧
    (widx (roundIndex 1 j)).toNat = (5 * j.toNat + 1) % 16 ∧
    (widx (roundIndex 2 j)).toNat = (3 * j.toNat + 5) % 16 ∧
    (widx (roundIndex 3 j)).toNat = (7 * j.toNat) % 16 := by
  obtain ⟨h0, h1, h2, h3⟩ := widx_roundIndex j
  rw [h0, h1, h2, h3, widx0_toNat, widx1_toNat, widx2_toNat, widx3_toNat]
  simp only [roundIndex_toNat]
  omega

/-- Two rounds of one quartile use different words: 1, 5, 3 and 7 are odd, so they cancel modulo 16. -/
theorem widx_roundIndex_injective (q : BitVec 2) : Function.Injective fun j => widx (roundIndex q j) := by
  intro j j' h
  have hg : (widx (roundIndex q j)).toNat = (widx (roundIndex q j')).toNat := congrArg BitVec.toNat h
  obtain ⟨h0, h1, h2, h3⟩ := widx_roundIndex_toNat j
  obtain ⟨h0', h1', h2', h3'⟩ := widx_roundIndex_toNat j'
  have hq : ∀ q : BitVec 2, q = 0 ∨ q = 1 ∨ q = 2 ∨ q = 3 := by decide
  apply BitVec.eq_of_toNat_eq
  rcases hq q with rfl | rfl | rfl | rfl <;> omega

/-- Settles O9: an injective row of sixteen positions reaches every one of the sixteen words. -/
theorem wordIndexIsAPermutation : Obligations.WordIndexIsAPermutation := by
  intro q
  have : Finite (BitVec 4) := .of_equiv _ BitVec.equivFin.symm.toEquiv
  exact (Finite.injective_iff_bijective.mp (widx_roundIndex_injective q)).existsUnique

end Sys2Proof.Machine

namespace Sys2Proof.Machine

/-! ### The padded length (R130 to R132, R136) -/

/-- The padded message is a whole number of blocks (R131). -/
theorem plen_eq_mul_nblk (l : Nat) : plen l = 64 * nblk l := rfl

theorem add_nine_le_plen (l : Nat) : l + 9 ≤ plen l := by
  unfold plen
  omega

theorem plen_le_add (l : Nat) : plen l ≤ l + 72 := by
  unfold plen
  omega

/-- A multiple of 64 with room for the message, the marker and the length field has room for the padded message (R130). -/
theorem plen_le_of_multiple {l p : Nat} (hmul : p % 64 = 0) (hroom : l + 9 ≤ p) : plen l ≤ p := by
  unfold plen
  omega

theorem plen_eq_add_zfill (l : Nat) : plen l = l + 9 + zfill l := by
  have hroom := add_nine_le_plen l
  unfold zfill
  omega

/-- `ZFILL` by the closed form of R132, in which no subtraction is cut off. -/
theorem zfill_eq (l : Nat) : zfill l = (119 - l % 64) % 64 := by
  unfold zfill plen
  omega

/-- The message and its marker end where the length field begins, or before (R133). -/
theorem succ_le_lengthField (l : Nat) : l + 1 ≤ plen l - 8 := by
  have hroom := add_nine_le_plen l
  omega

/-- Settles O13: a whole number of blocks, at least one, between the two bounds; 55 bytes fill a block exactly. -/
theorem paddedLengthInvariants : Obligations.PaddedLengthInvariants := by
  refine ⟨fun l _ => ?_, rfl⟩
  have hblocks := plen_eq_mul_nblk l
  have hpos := nblk_pos l
  exact ⟨by omega, add_nine_le_plen l, plen_le_add l, by omega⟩

/-- Settles O14: `plen l` is below every candidate, and `nblk` and `zfill` count what it consists of. -/
theorem paddedLengthIsLeast : Obligations.PaddedLengthIsLeast := fun l hl =>
  ⟨fun _ => plen_le_of_multiple, plen_eq_mul_nblk l, plen_eq_add_zfill l, zfill_eq l, nblk_pos l, nblk_le hl⟩

/-! ### The four cases of a padded byte (R133) -/

@[simp] theorem padByte_message {l j : Nat} (msg : Nat → Byte) (h : j < l) : padByte l msg j = msg j := by
  simp [padByte, h]

@[simp] theorem padByte_marker (l : Nat) (msg : Nat → Byte) : padByte l msg l = 0x80 := by
  simp [padByte]

theorem padByte_zeroFill {l j : Nat} (msg : Nat → Byte) (hl : l < j) (hj : j < plen l - 8) : padByte l msg j = 0x00 := by
  simp [padByte, hj, show ¬ j < l by omega, show j ≠ l by omega]

/-- An index of the padded message lies in the message, at the marker, in the zero fill or in the length field. -/
theorem padIndex_cases {l j : Nat} (h : j < plen l) :
    j < l ∨ j = l ∨ (l < j ∧ j < plen l - 8) ∨ ∃ k, k < 8 ∧ j = plen l - 8 + k := by
  by_cases hfield : j < plen l - 8
  · omega
  · exact .inr (.inr (.inr ⟨j - (plen l - 8), by omega, by omega⟩))

/-- Settles O15: one lemma for each case, and only the first of them reads the message. -/
theorem paddedBytes : Obligations.PaddedBytes := by
  intro l msg _
  refine ⟨fun j => padByte_message msg, padByte_marker l msg, fun j => padByte_zeroFill msg, fun k _ => ?_,
    succ_le_lengthField l, fun j => padIndex_cases, fun msg' => padByte_congr⟩
  rw [padByte_lengthField, lengthByte_toNat]

/-! ### The padding is unambiguous (R137) -/

/-- The length field tells the length: its eight bytes are the digits of `8 * l`, which lies below `2 ^ 64`. -/
theorem eq_of_lengthByte_eq {l l' : Nat} (hl : l < 2 ^ 61) (hl' : l' < 2 ^ 61)
    (h : ∀ k, k < 8 → lengthByte l k = lengthByte l' k) : l = l' := by
  have hdigit : ∀ k : Fin 8, 8 * l / 2 ^ (8 * k.val) % 256 = 8 * l' / 2 ^ (8 * k.val) % 256 := fun k => by
    rw [← lengthByte_toNat, ← lengthByte_toNat, h k k.isLt]
  simp only [Fin.forall_fin_succ, Fin.val_zero, Fin.val_succ] at hdigit
  omega

/-- Settles O17: the last eight bytes give the length, and the bytes below it are the message. -/
theorem paddingIsUnambiguous : Obligations.PaddingIsUnambiguous := by
  intro l l' msg msg' hl hl' hplen heq
  have hroom := add_nine_le_plen l
  have hfield : ∀ k, k < 8 → lengthByte l k = lengthByte l' k := fun k hk => by
    have h := heq (plen l - 8 + k) (by omega)
    rwa [padByte_lengthField, hplen, padByte_lengthField] at h
  obtain rfl := eq_of_lengthByte_eq hl hl' hfield
  refine ⟨rfl, fun j hj => ?_⟩
  simpa [hj] using heq j (by omega)

/-! ### `LOADBLK` loads the block (R135) -/

/-- Four bytes read as a word, the first of them least significant (R57, R67). -/
theorem memReadWord_toNat (byte : Nat → Byte) (a : Nat) :
    (memReadWord byte a).toNat = (byte a).toNat + (byte (a + 1)).toNat * 2 ^ 8 + (byte (a + 2)).toNat * 2 ^ 16 +
      (byte (a + 3)).toNat * 2 ^ 24 :=
  le32_toNat _ _ _ _

/-- Word `t` of block `k` is read at byte `64 * k + 4 * t` of the padded message (R135). -/
theorem blockWords_getElem (l : Nat) (msg : Nat → Byte) (k : Nat) {t : Nat} (ht : t < 16) :
    (blockWords l msg k)[t] = memReadWord (padByte l msg) (64 * k + 4 * t) := by
  simp [blockWords]

/-- The block of the message memory is that of the message which the memory holds there (R135). -/
theorem blockWords_of_memRead {s : State} {src : List Byte}
    (h : ∀ (j : Nat) (hj : j < src.length), 64 * s.blk.toNat ≤ j → j < 64 * s.blk.toNat + 64 →
      j < s.cap.toNat ∧ memRead s.msg j = some src[j]) :
    blockWords src.length (msgByte s) s.blk.toNat =
      blockWords src.length (fun j => src.getD j 0) s.blk.toNat := by
  refine blockWords_congr_block fun j hj hlow hhigh => ?_
  obtain ⟨hcap, hread⟩ := h j hj hlow hhigh
  simp [msgByte_of_memRead hcap hread, hj]

/-- Settles O18: the block is written, so `LOADBLK` completes, and its words are those of the message. -/
theorem loadblkLoadsTheBlock : Obligations.LoadblkLoadsTheBlock := by
  intro s src hlen hl hb hsrc
  refine ⟨_, execLoadblk_next hl hb (blockWritten_of_memRead hlen hsrc), fun t ht => ?_⟩
  simp only [← hlen, blockWords_of_memRead hsrc]
  rw [blockWords_getElem _ _ _ ht]
  exact memReadWord_toNat _ _

end Sys2Proof.Machine

namespace Sys2Proof.Machine

/-! ### The steps of the Compressor (R154 to R161) -/

/-- Settles O20: the decoder reads the phase alone. -/
theorem copyinCopiesTheHashState : Obligations.CopyinCopiesTheHashState :=
  ⟨fun _ => rfl, fun q j => by rw [decodeSQ, sqRecord_phase]; rfl⟩

/-- Settles O25: the decoder reads the phase alone. -/
theorem addbackAddsTheWorkingVariables : Obligations.AddbackAddsTheWorkingVariables := by
  refine ⟨fun s => ⟨fun hlast => ?_, fun hmore => ?_⟩, fun q j => by rw [decodeSQ, sqRecord_phase]; rfl⟩
  · simp [exec, execAddback, quadAdd, add32, hlast]
  · simp [exec, execAddback, quadAdd, add32, hmore]

/-- The operand of a round that is `RND` as a number is `RND` (R84, log 10). -/
theorem roundIndex_eq {r : Round} {q : BitVec 2} {j : BitVec 4} (h : r.toNat = 16 * q.toNat + j.toNat) :
    roundIndex q j = r :=
  BitVec.eq_of_toNat_eq (by rw [roundIndex_toNat, h])

/-- A round by its word index and its shift amount as numbers, with the circular rotation of the library (R160). -/
theorem runRound_eq {f : Word → Word → Word → Word} {g : Round → BitVec 4} {i : Round} {k n : Nat} (s : State)
    (hk : k < 16) (hg : (g i).toNat = k) (hn : sRom i = n) :
    runRound f g i s = advanceRound i { s with w :=
      ⟨s.w.d, s.w.b + (f s.w.b s.w.c s.w.d + s.w.a + s.m[k] + kRom i).rotateLeft n, s.w.b, s.w.c⟩ } := by
  subst hg hn
  have hs : sRom i < 32 := by
    obtain ⟨-, hle, -⟩ := shiftAmounts i
    omega
  simp only [runRound, roundMoves, add32, rotl_eq_rotateLeft hs]

/-- The shift amount of a round from its quartile and its position (R152). -/
theorem sRom_of_toNat {r : Round} {q : BitVec 2} {j : BitVec 4} (h : r.toNat = 16 * q.toNat + j.toNat) :
    sRom r = (sTable.getD q.toNat []).getD (j.toNat % 4) 0 := by
  rw [sRom_of_quartile (q := q.toNat) (by omega), show r.toNat % 4 = j.toNat % 4 by omega]

/-- The last round leaves the phase (R161). -/
theorem advanceRound_last {i : Round} (h : i.toNat = 63) (s : State) :
    advanceRound i s = { s with ph := .addback, rnd := 0 } :=
  if_pos (BitVec.eq_of_toNat_eq h)

/-- Every round but the last counts on (R161). -/
theorem advanceRound_of_ne_last {i : Round} (h : i.toNat ≠ 63) (s : State) :
    advanceRound i s = { s with rnd := i + 1 } :=
  if_neg fun hi => h (congrArg BitVec.toNat hi)

/-- Settles O21: `RND` is below 16, so the word index is `RND` itself and the phase goes on. -/
theorem roundFFResult : Obligations.RoundFFResult := by
  intro s j h
  have hq : s.rnd.toNat = 16 * (0 : BitVec 2).toNat + j.toNat := by simpa using h
  have hg : (widx0 s.rnd).toNat = j.toNat := by rw [widx0_toNat]; omega
  change Host.Outcome.next (runRound mixF widx0 (roundIndex 0 j) s) = _
  rw [roundIndex_eq hq, runRound_eq s j.isLt hg (sRom_of_toNat hq), advanceRound_of_ne_last (by omega)]
  rfl

/-- Settles O22: `RND` is below 32, so the phase goes on. -/
theorem roundGGResult : Obligations.RoundGGResult := by
  intro s j h
  change Host.Outcome.next (runRound mixG widx1 (roundIndex 1 j) s) = _
  rw [roundIndex_eq h, runRound_eq s (Nat.mod_lt _ (by decide)) (widx1_toNat _) (sRom_of_toNat (q := 1) h),
    advanceRound_of_ne_last (by omega)]
  rfl

/-- Settles O23: `RND` is below 48, so the phase goes on. -/
theorem roundHHResult : Obligations.RoundHHResult := by
  intro s j h
  change Host.Outcome.next (runRound mixH widx2 (roundIndex 2 j) s) = _
  rw [roundIndex_eq h, runRound_eq s (Nat.mod_lt _ (by decide)) (widx2_toNat _) (sRom_of_toNat (q := 2) h),
    advanceRound_of_ne_last (by omega)]
  rfl

/-- Settles O24: one round equation, and the advance in its two cases. -/
theorem roundIIResult : Obligations.RoundIIResult := by
  intro s j h f sum temp
  have hround : exec (.roundII j) s =
      .next (advanceRound s.rnd { s with w := ⟨s.w.d, temp, s.w.b, s.w.c⟩ }) := by
    change Host.Outcome.next (runRound mixI widx3 (roundIndex 3 j) s) = _
    rw [roundIndex_eq h, runRound_eq s (Nat.mod_lt _ (by decide)) (widx3_toNat _) (sRom_of_toNat (q := 3) h)]
    rfl
  refine ⟨fun hlast => ?_, fun hmore => ?_⟩
  · rw [hround, advanceRound_last hlast]
  · rw [hround, advanceRound_of_ne_last hmore]

/-! ### The run of the Compressor (R162) -/

theorem step_copyin {s : State} (hph : s.ph = .copy) (hin : s.inbox = []) :
    step s = .next { s with w := s.h, rnd := 0, ph := .round } := by
  simp [step_core hin, coreTurn_eq, hph, execCopyin]

theorem step_round {s : State} (hph : s.ph = .round) (hin : s.inbox = []) (hrnd : s.rnd.toNat ≠ 63) :
    step s = .next { s with w := roundEquation s.m s.rnd s.w, rnd := s.rnd + 1 } := by
  rw [step_core hin, coreTurn_round hph, advanceRound_of_ne_last hrnd]

theorem step_lastRound {s : State} (hph : s.ph = .round) (hin : s.inbox = []) (hrnd : s.rnd.toNat = 63) :
    step s = .next { s with w := roundEquation s.m s.rnd s.w, rnd := 0, ph := .addback } := by
  rw [step_core hin, coreTurn_round hph, advanceRound_last hrnd]

theorem step_addback {s : State} (hph : s.ph = .addback) (hin : s.inbox = []) :
    step s = .next { s with
      h := quadAdd s.h s.w, blk := s.blk + 1
      ph := if s.blk.toNat + 1 = nblk s.len.toNat then .serial else .load } := by
  simp [step_core hin, coreTurn_eq, hph, execAddback]

/-- A run of `n` steps and one more. -/
theorem run_snoc {n : Nat} {s t u : State} (h : Sys2Proof.core.run n s = .next t) (hstep : step t = .next u) :
    Sys2Proof.core.run (n + 1) s = .next u :=
  (run_add n 1 h).trans (run_succ 0 hstep)

/-- From round 0 the first `n` rounds compute `rounds n`, as long as the last round is still to come (R161, R162). -/
theorem run_rounds {s : State} (hph : s.ph = .round) (hin : s.inbox = []) (hrnd : s.rnd = 0) :
    ∀ n ≤ 63, Sys2Proof.core.run n s = .next { s with w := rounds s.m n s.w, rnd := BitVec.ofNat 6 n }
  | 0, _ => by
    have hs : s = { s with rnd := 0 } := by rw [← hrnd]
    exact congrArg Host.Outcome.next hs
  | n + 1, hn => by
    have hidx : (BitVec.ofNat 6 n).toNat ≠ 63 := by
      rw [BitVec.toNat_ofNat]
      omega
    rw [BitVec.ofNat_add]
    exact run_snoc (run_rounds hph hin hrnd n (by omega)) (step_round hph hin hidx)

/-- The 64 rounds leave the working variables of `rounds 64` and the phase `ADDBACK` (R161, R162). -/
theorem run_allRounds {s : State} (hph : s.ph = .round) (hin : s.inbox = []) (hrnd : s.rnd = 0) :
    Sys2Proof.core.run 64 s = .next { s with w := rounds s.m 64 s.w, rnd := 0, ph := .addback } :=
  run_snoc (run_rounds hph hin hrnd 63 le_rfl) (step_lastRound hph hin rfl)

/-- Settles O26: `COPYIN`, the rounds by induction on their number, `ADDBACK`. -/
theorem compressorComputesCompress : Obligations.CompressorComputesCompress := fun _ hph hin =>
  ⟨_, (run_succ 65 (step_copyin hph hin)).trans (run_snoc (run_allRounds rfl hin rfl) (step_addback rfl hin)), rfl⟩

end Sys2Proof.Machine

namespace Sys2Proof.Machine

/-! ### The round constants are the sines (R151, log 12)

`sin n` is the imaginary part of `exp(i) ^ n`. The powers of a Gaussian integer near `16! * exp(i)` give it with an error
below the distance of every `|sin n| * 2^32` from the next integer. -/

section
open Finset Complex
open scoped Nat

/-- `16!` times the first seventeen terms of the series of `exp(i)`, whose imaginary part is `sin 1`. -/
def scaledExpI : GaussianInt := ⟨11304631621681, 17605920611984⟩

theorem scaledExpI_div_eq_sum : (scaledExpI : ℂ) / 16! = ∑ m ∈ range 17, I ^ m / (m ! : ℂ) := by
  have hcycle : ∀ k, I ^ (k + 4) = I ^ k := fun k => by rw [pow_add, I_pow_four, mul_one]
  simp only [scaledExpI, GaussianInt.toComplex_def, sum_range_succ, range_zero, sum_empty, hcycle, pow_zero, pow_one,
    I_sq, I_pow_three, Nat.factorial]
  push_cast
  ring

/-- The remainder of the series after the seventeenth term. -/
theorem norm_exp_I_sub_le : ‖exp I - scaledExpI / 16!‖ ≤ 1 / 10 ^ 14 := by
  rw [scaledExpI_div_eq_sum]
  refine (exp_bound norm_I.le (by decide)).trans ?_
  norm_num [Nat.factorial]

/-- The approximation lies in the unit disc, since its norm as a Gaussian integer is at most `16!` squared. -/
theorem norm_scaledExpI_div_le_one : ‖(scaledExpI : ℂ) / 16!‖ ≤ 1 := by
  have hnorm : scaledExpI.norm ≤ (16! : ℤ) ^ 2 := by decide +kernel
  have hsq : ‖(scaledExpI : ℂ)‖ ^ 2 ≤ (16! : ℝ) ^ 2 := by
    rw [Complex.sq_norm, ← GaussianInt.intCast_real_norm]
    exact_mod_cast hnorm
  rw [norm_div, norm_natCast]
  exact div_le_one_of_le₀ (le_of_sq_le_sq hsq (by positivity)) (by positivity)

/-- On the unit disc the error of a power grows with the exponent only. -/
theorem norm_pow_sub_pow_le {a b : ℂ} (ha : ‖a‖ ≤ 1) (hb : ‖b‖ ≤ 1) (n : Nat) : ‖a ^ n - b ^ n‖ ≤ n * ‖a - b‖ := by
  induction n with
  | zero => simp
  | succ n ih =>
    have hbn : ‖b ^ n‖ ≤ 1 := by
      rw [norm_pow]
      exact pow_le_one₀ (norm_nonneg b) hb
    calc ‖a ^ (n + 1) - b ^ (n + 1)‖ = ‖(a ^ n - b ^ n) * a + b ^ n * (a - b)‖ := by ring_nf
      _ ≤ ‖a ^ n - b ^ n‖ * ‖a‖ + ‖b ^ n‖ * ‖a - b‖ := by
        rw [← norm_mul, ← norm_mul]
        exact norm_add_le _ _
      _ ≤ n * ‖a - b‖ * 1 + 1 * ‖a - b‖ := by gcongr
      _ = (n + 1 : Nat) * ‖a - b‖ := by push_cast; ring

/-- `sin n` from the power `n` of the approximation to `exp(i)`. -/
def sinApprox (n : Nat) : ℚ := (scaledExpI ^ n).im / 16! ^ n

theorem sinApprox_eq_im (n : Nat) : (sinApprox n : ℝ) = (((scaledExpI : ℂ) / 16!) ^ n).im := by
  have hd : (16! : ℂ) ^ n = ((16! ^ n : Nat) : ℂ) := by push_cast; rfl
  rw [div_pow, ← map_pow, hd, div_natCast_im, ← GaussianInt.intCast_im, sinApprox]
  push_cast
  rfl

/-- `sin n` is the imaginary part of `exp(i) ^ n`. -/
theorem abs_sin_sub_sinApprox_le (n : Nat) : |Real.sin n - sinApprox n| ≤ n / 10 ^ 14 := by
  have hsin : Real.sin n = (exp I ^ n).im := by
    rw [← exp_nat_mul, ← exp_ofReal_mul_I_im, ofReal_natCast]
  calc |Real.sin n - sinApprox n| = |(exp I ^ n - ((scaledExpI : ℂ) / 16!) ^ n).im| := by
        rw [hsin, sinApprox_eq_im, sub_im]
    _ ≤ ‖exp I ^ n - ((scaledExpI : ℂ) / 16!) ^ n‖ := abs_im_le_norm _
    _ ≤ n * ‖exp I - scaledExpI / 16!‖ :=
        norm_pow_sub_pow_le (by simp [norm_exp]) norm_scaledExpI_div_le_one n
    _ ≤ n * (1 / 10 ^ 14) := by gcongr; exact norm_exp_I_sub_le
    _ = n / 10 ^ 14 := by ring

/-- Every constant of the table has room for the error of the approximation on both sides (R151). -/
theorem kRom_bounds (i : Round) :
    ((kRom i).toNat : ℚ) ≤ (|sinApprox (i.toNat + 1)| - (i.toNat + 1 : Nat) / 10 ^ 14) * 2 ^ 32 ∧
    (|sinApprox (i.toNat + 1)| + (i.toNat + 1 : Nat) / 10 ^ 14) * 2 ^ 32 < (kRom i).toNat + 1 := by
  revert i
  decide +kernel

/-- Settles O59: what separates the sine from its approximation is too little to reach the next integer. -/
theorem roundConstantsAreTheSines : Obligations.RoundConstantsAreTheSines := by
  intro i
  obtain ⟨hlow, hhigh⟩ := kRom_bounds i
  have hnear : |(|Real.sin (i.toNat + 1 : Nat)| - |(sinApprox (i.toNat + 1) : ℝ)|)| ≤ (i.toNat + 1 : Nat) / 10 ^ 14 :=
    (abs_abs_sub_abs_le _ _).trans (abs_sin_sub_sinApprox_le _)
  obtain ⟨hbelow, habove⟩ := abs_le.mp hnear
  rw [← Rat.cast_le (K := ℝ)] at hlow
  rw [← Rat.cast_lt (K := ℝ)] at hhigh
  rw [Int.floor_eq_iff]
  push_cast at *
  constructor <;> linarith

end
end Sys2Proof.Machine

namespace Sys2Proof.Machine

/-! ### The commands of the Digest Engine (R182, R186) -/

/-- A `START` that meets all its conditions begins a computation (R182). -/
theorem execStart_accepted {s : State} (he : s.err = false) (hb : s.busy = false) (hl : s.len.toNat < 2 ^ 61)
    (hc : s.len.toNat ≤ s.cap.toNat) : execStart s = .next (beginDigest s) := by
  rw [execStart, writeGate_open he hb, if_neg (by omega), if_neg (by omega)]

/-- A record whose low data byte is the command word `0x01` is `START`, whatever its other data bits are (R82). -/
theorem decodeHT_start {data : DWord} (h : data.toNat % 256 = 0x01) : decodeHT (htRecord 4 0 data) = .start := by
  rw [decodeHT_htRecord, decodeFields_command, decodeCW_truncate, if_pos h]

/-- Settles O27: the write gate answers first, then the two checks of the length in their order. -/
theorem startCommand : Obligations.StartCommand := by
  refine ⟨fun s => ⟨fun he => ?_, fun he hb => ?_, fun he hb hl => ?_, fun he hb hl hc => ?_, execStart_accepted⟩,
    fun _ => decodeHT_start⟩
  · exact congrArg _ (writeGate_locked he)
  · exact congrArg _ (writeGate_busy he hb)
  · rw [exec, execStart, writeGate_open he hb, if_pos hl]
    rfl
  · rw [exec, execStart, writeGate_open he hb, if_neg (by omega), if_pos hc]
    rfl

theorem wordByte_toNat (w : Word) (k : Nat) : (wordByte w k).toNat = w.toNat / 2 ^ (8 * k) % 256 := by
  rw [wordByte, BitVec.extractLsb'_toNat, Nat.shiftRight_eq_div_pow]

theorem quadWord_eq_getD (q : Quad) {w : Nat} (hw : w < 4) : quadWord q w = [q.a, q.b, q.c, q.d].getD w 0 := by
  interval_cases w <;> rfl

/-- Byte `4w + k` of the sixteen is byte `k` of word `w` (R59). -/
theorem quadBytes_getElem (q : Quad) {w k : Nat} (hw : w < 4) (hk : k < 4) :
    (quadBytes q)[4 * w + k] = wordByte (quadWord q w) k := by
  simp [quadBytes, show (4 * w + k) / 4 = w by omega, show (4 * w + k) % 4 = k by omega]

/-- Settles O28: the bytes of the digest are the bytes of the words of `H`; the decoder reads the phase alone. -/
theorem serialWritesTheDigest : Obligations.SerialWritesTheDigest := by
  refine ⟨fun s => ⟨quadBytes s.h, rfl, fun w k hw hk => ?_⟩, fun q j => by rw [decodeSQ, sqRecord_phase]; rfl⟩
  rw [quadBytes_getElem s.h hw hk, wordByte_toNat, quadWord_eq_getD s.h hw]

end Sys2Proof.Machine

namespace Sys2Proof.Machine

/-! ### The positions of a digest computation (R183, R188)

A computation takes 67 turns of the core for each block and one for `SERIAL`. Its position is the number of them taken;
it tells the phase and what the registers hold. -/

/-- The Hash State after the first `k` blocks of the padded message `src`. -/
def hashOf (src : List Byte) (k : Nat) : Quad := hashBlocks src.length (fun j => src.getD j 0) k

/-- The words of block `k` of the padded message `src`. -/
def blockOf (src : List Byte) (k : Nat) : Vector Word 16 := blockWords src.length (fun j => src.getD j 0) k

/-- The working variables after `i` rounds on block `k` of the padded message `src`. -/
def roundsOf (src : List Byte) (k i : Nat) : Quad := rounds (blockOf src k) i (hashOf src k)

theorem hashOf_succ (src : List Byte) (k : Nat) : hashOf src (k + 1) = quadAdd (hashOf src k) (roundsOf src k 64) := rfl

/-- Block `k` of `src` is being processed, and `H` is not yet that of the block after it (R185). -/
structure OnBlock (src : List Byte) (k : Nat) (s : State) : Prop where
  lt : k < nblk src.length
  blk : s.blk.toNat = k
  h : s.h = hashOf src k

/-- The state `s` stands at a position of the computation of the digest of `src`. -/
inductive AtPosition (src : List Byte) (s : State) : Nat → Prop where
  | load {k} (on : OnBlock src k s) (ph : s.ph = .load) : AtPosition src s (67 * k)
  | copy {k} (on : OnBlock src k s) (ph : s.ph = .copy) (m : s.m = blockOf src k) : AtPosition src s (67 * k + 1)
  | round {k i} (on : OnBlock src k s) (ph : s.ph = .round) (m : s.m = blockOf src k) (lt : i < 64)
      (rnd : s.rnd = BitVec.ofNat 6 i) (w : s.w = roundsOf src k i) : AtPosition src s (67 * k + 2 + i)
  | addback {k} (on : OnBlock src k s) (ph : s.ph = .addback) (w : s.w = roundsOf src k 64) :
      AtPosition src s (67 * k + 66)
  | serial (ph : s.ph = .serial) (h : s.h = hashOf src (nblk src.length)) : AtPosition src s (67 * nblk src.length)

/-- What holds at every position: the block is busy, and its message memory holds `src` (R70). -/
structure Hashing (src : List Byte) (s : State) : Prop where
  busy : s.busy = true
  not_done : s.done = false
  len_eq : src.length = s.len.toNat
  len_lt : s.len.toNat < 2 ^ 61
  held : ∀ (j : Nat) (hj : j < src.length), j < s.cap.toNat ∧ memRead s.msg j = some src[j]

/-- After `n` turns of the core the block computes the digest of `src`. -/
structure Computing (src : List Byte) (n : Nat) (s : State) : Prop extends Hashing src s where
  pos : AtPosition src s n

/-- At the last position the only turn left is `SERIAL`. -/
theorem AtPosition.at_end {src : List Byte} {s : State} (pos : AtPosition src s (67 * nblk src.length)) :
    s.ph = .serial ∧ s.h = hashOf src (nblk src.length) := by
  generalize hn : 67 * nblk src.length = n at pos
  cases pos with
  | serial ph h => exact ⟨ph, h⟩
  | load on | copy on | round on | addback on =>
    have hlt := on.lt
    omega

/-! ### The turns of the host in a computation (R190, R269) -/

/-- `t` is `s` but for the refusal registers and the model's own fields: what the host can change in a busy block. -/
def sameBusy (s t : State) : Prop :=
  t = { s with
    err := t.err, ecode := t.ecode, draws := t.draws, rdata := t.rdata, fOut := t.fOut, gOut := t.gOut
    inbox := t.inbox }

/-- A turn of the host in a busy block completes, and leaves the computation and the turns still to come alone. -/
theorem takeEvent_busy {e : Event} {s : State} (hb : s.busy = true) (hr : notReset e = true) (hc : e ≠ .core) :
    ∃ t, takeEvent e s = .next t ∧ sameBusy s t ∧ t.inbox = s.inbox := by
  rcases takeEvent_cases e s with ⟨he, -⟩ | ⟨r, -, hw, hturn⟩ | ⟨rfl, -⟩ | ⟨-, -, v, n, f, g, hturn⟩
  · exact absurd he hc
  · exact ⟨_, hturn.trans (exec_hostWrite_busy hw hb), rfl, rfl⟩
  · simp [notReset] at hr
  · exact ⟨_, hturn, rfl, rfl⟩

theorem Hashing.of_sameBusy {src : List Byte} {s t : State} (hs : Hashing src s) (hst : sameBusy s t) :
    Hashing src t := by
  rw [hst]
  exact { hs with }

theorem AtPosition.of_sameBusy {src : List Byte} {n : Nat} {s t : State} (pos : AtPosition src s n)
    (hst : sameBusy s t) : AtPosition src t n := by
  rw [hst]
  cases pos with
  | load on ph => exact .load { on with } ph
  | copy on ph m => exact .copy { on with } ph m
  | round on ph m lt rnd w => exact .round { on with } ph m lt rnd w
  | addback on ph w => exact .addback { on with } ph w
  | serial ph h => exact .serial ph h

theorem Computing.of_sameBusy {src : List Byte} {n : Nat} {s t : State} (c : Computing src n s) (hst : sameBusy s t) :
    Computing src n t :=
  { c.toHashing.of_sameBusy hst with pos := c.pos.of_sameBusy hst }

/-! ### The turns of the core in a computation (R183, R185) -/

section
variable {src : List Byte} {k : Nat} {s : State} (hs : Hashing src s) (on : OnBlock src k s)
include hs on

/-- `LOADBLK` completes, and loads the block of `src` (R135). -/
theorem Hashing.load (ph : s.ph = .load) :
    ∃ t, coreTurn s = .next t ∧ Computing src (67 * k + 1) t ∧ t.inbox = s.inbox := by
  have hblk := on.blk
  have hm : blockWords s.len.toNat (msgByte s) s.blk.toNat = blockOf src k := by
    rw [← hs.len_eq, blockWords_of_memRead fun j hj _ _ => hs.held j hj, hblk, blockOf]
  have hturn : coreTurn s = execLoadblk s := by rw [coreTurn_eq, ph]
  refine ⟨_, hturn.trans (execLoadblk_next hs.len_lt ?_ ?_), { hs with pos := ?_ }, rfl⟩
  · rw [hblk, ← hs.len_eq]
    exact on.lt
  · exact blockWritten_of_memRead hs.len_eq fun j hj _ _ => hs.held j hj
  · exact .copy { on with } rfl hm

/-- `COPYIN` begins the rounds (R154). -/
theorem Hashing.copy (ph : s.ph = .copy) (m : s.m = blockOf src k) :
    ∃ t, coreTurn s = .next t ∧ Computing src (67 * k + 2) t ∧ t.inbox = s.inbox := by
  have hturn : coreTurn s = execCopyin s := by rw [coreTurn_eq, ph]
  exact ⟨_, hturn, { hs with pos := .round (i := 0) { on with } rfl m (by decide) rfl on.h }, rfl⟩

/-- A round counts on, and the last one goes to `ADDBACK` (R160, R161). -/
theorem Hashing.round {i : Nat} (ph : s.ph = .round) (m : s.m = blockOf src k) (lt : i < 64)
    (rnd : s.rnd = BitVec.ofNat 6 i) (w : s.w = roundsOf src k i) :
    ∃ t, coreTurn s = .next t ∧ Computing src (67 * k + 2 + i + 1) t ∧ t.inbox = s.inbox := by
  have hw : roundEquation s.m s.rnd s.w = roundsOf src k (i + 1) := by
    rw [m, rnd, w]
    rfl
  have hi : s.rnd.toNat = i := by
    rw [rnd, BitVec.toNat_ofNat]
    omega
  rw [coreTurn_round ph, hw]
  by_cases hlast : i = 63
  · subst hlast
    rw [advanceRound_last hi]
    exact ⟨_, rfl, { hs with pos := .addback { on with } rfl rfl }, rfl⟩
  · rw [advanceRound_of_ne_last (by omega)]
    have hnext : s.rnd + 1 = BitVec.ofNat 6 (i + 1) := by rw [rnd, BitVec.ofNat_add]; rfl
    exact ⟨_, rfl, { hs with pos := .round (i := i + 1) { on with } ph m (by omega) hnext rfl }, rfl⟩

/-- `ADDBACK` ends the block, and after the last one goes to `SERIAL` (R159). -/
theorem Hashing.addback (ph : s.ph = .addback) (w : s.w = roundsOf src k 64) :
    ∃ t, coreTurn s = .next t ∧ Computing src (67 * (k + 1)) t ∧ t.inbox = s.inbox := by
  have hlt := on.lt
  have hh : quadAdd s.h s.w = hashOf src (k + 1) := by rw [on.h, w, hashOf_succ]
  have hturn : coreTurn s = execAddback s := by rw [coreTurn_eq, ph]
  rw [hturn, execAddback, hh, on.blk, ← hs.len_eq]
  by_cases hlast : k + 1 = nblk src.length
  · rw [if_pos hlast, hlast]
    exact ⟨_, rfl, { hs with pos := .serial rfl rfl }, rfl⟩
  · rw [if_neg hlast]
    have hle := nblk_le (hs.len_eq ▸ hs.len_lt)
    have hblk : (s.blk + 1).toNat = k + 1 := by
      rw [BitVec.toNat_add, on.blk]
      exact Nat.mod_eq_of_lt (by simp; omega)
    exact ⟨_, rfl, { hs with pos := .load ⟨by omega, hblk, rfl⟩ rfl }, rfl⟩

end

/-- Before the last position a turn of the core completes and takes the computation one position on. -/
theorem Computing.coreTurn {src : List Byte} {n : Nat} {s : State} (c : Computing src n s)
    (hn : n < 67 * nblk src.length) : ∃ t, coreTurn s = .next t ∧ Computing src (n + 1) t ∧ t.inbox = s.inbox := by
  cases c.pos with
  | load on ph => exact c.toHashing.load on ph
  | copy on ph m => exact c.toHashing.copy on ph m
  | round on ph m lt rnd w => exact c.toHashing.round on ph m lt rnd w
  | addback on ph w => exact c.toHashing.addback on ph w
  | serial => exact absurd hn (lt_irrefl _)

/-! ### The law of the digest (R188) -/

/-- A turn of either agent takes the computation on by the turns of the core it counts. -/
theorem Computing.step {src : List Byte} {n : Nat} {s : State} {e : Event} {rest : List Event}
    (c : Computing src n s) (hin : s.inbox = e :: rest) (hr : notReset e = true)
    (hn : n + coreTurns [e] ≤ 67 * nblk src.length) :
    ∃ t, step s = .next t ∧ Computing src (n + coreTurns [e]) t ∧ t.inbox = rest := by
  have c' : Computing src n { s with inbox := rest } := c.of_sameBusy rfl
  rw [step_event hin]
  by_cases he : e = .core
  · subst he
    exact c'.coreTurn hn
  · obtain ⟨t, ht, hst, hrest⟩ := takeEvent_busy c'.busy hr he
    have hzero : coreTurns [e] = 0 := by simp [coreTurns, he]
    rw [hzero]
    exact ⟨t, ht, c'.of_sameBusy hst, hrest⟩

/-- A list of turns without a reset takes the computation on by the turns of the core it counts. -/
theorem Computing.run {src : List Byte} {rest : List Event} (es : List Event) :
    ∀ {n : Nat} {s : State}, Computing src n s → s.inbox = es ++ rest → (∀ e ∈ es, notReset e = true) →
      n + coreTurns es ≤ 67 * nblk src.length →
      ∃ t, Sys2Proof.core.run es.length s = .next t ∧ Computing src (n + coreTurns es) t ∧ t.inbox = rest := by
  induction es with
  | nil => exact fun c hin _ _ => ⟨_, rfl, c, hin⟩
  | cons e es ih =>
    intro n s c hin hr hn
    have hcount : coreTurns (e :: es) = coreTurns [e] + coreTurns es := List.countP_append (l₁ := [e])
    obtain ⟨t, ht, ct, htin⟩ := c.step hin (hr e (by simp)) (by omega)
    obtain ⟨u, hu, cu, huin⟩ := ih ct htin (fun e he => hr e (by simp [he])) (by omega)
    refine ⟨u, (run_succ es.length ht).trans hu, ?_, huin⟩
    rwa [hcount, ← Nat.add_assoc]

/-- An accepted `START` begins the computation (R182). -/
theorem computing_beginDigest {src : List Byte} {s : State} (hlen : src.length = s.len.toNat)
    (hl : s.len.toNat < 2 ^ 61) (hc : s.len.toNat ≤ s.cap.toNat)
    (hm : ∀ (j : Nat) (hj : j < src.length), memRead s.msg j = some src[j]) : Computing src 0 (beginDigest s) where
  busy := rfl
  not_done := rfl
  len_eq := hlen
  len_lt := hl
  held := fun j hj => ⟨by simp; omega, hm j hj⟩
  pos := .load (k := 0) ⟨nblk_pos _, rfl, rfl⟩ rfl

/-- A turn that is a `START` which meets all its conditions begins a computation (R182). -/
theorem step_start {s : State} {es : List Event} (he : s.err = false) (hb : s.busy = false) (hl : s.len.toNat < 2 ^ 61)
    (hc : s.len.toNat ≤ s.cap.toNat) (hin : s.inbox = .ht (htRecord 4 0 0x01) :: es) :
    step s = .next (beginDigest { s with inbox := es }) := by
  rw [step_event hin, takeEvent, decodeHT_start (by decide)]
  exact execStart_accepted (s := { s with inbox := es }) he hb hl hc

/-- At the last position the turn of the core is `SERIAL`, which writes the digest (R186). -/
theorem Computing.step_serial {src : List Byte} {s : State} {rest : List Event}
    (c : Computing src (67 * nblk src.length) s) (hin : s.inbox = .core :: rest) :
    Machine.step s = .next { s with
      dig := digest src.length (fun j => src.getD j 0), done := true, busy := false, ph := .idle, inbox := rest } := by
  obtain ⟨hph, hh⟩ := c.pos.at_end
  rw [step_event hin, takeEvent, coreTurn_eq]
  simp only [hph, execSerial, hh]
  rfl

/-- Settles O29: the computation goes through its positions, and every state before the last turn stands at one. -/
theorem digestComputation : Obligations.DigestComputation := by
  intro s src es rest he hb hlen hl hc hm hin hr hcount
  have hin' : s.inbox = .ht (htRecord 4 0 0x01) :: (es ++ .core :: rest) := by simp [hin]
  have hstart := step_start he hb hl hc hin'
  have c : Computing src 0 (beginDigest { s with inbox := es ++ .core :: rest }) := computing_beginDigest hlen hl hc hm
  constructor
  · obtain ⟨t, ht, ct, htin⟩ := c.run es rfl hr (by omega)
    rw [Nat.zero_add, hcount] at ct
    exact ⟨_, (run_succ _ hstart).trans (run_snoc ht (ct.step_serial htin)), rfl, rfl, rfl, rfl, rfl⟩
  · intro n u hpos hlt hrun
    obtain ⟨m, rfl⟩ := Nat.exists_eq_add_of_le' hpos
    have hfew : coreTurns (es.take m) ≤ coreTurns es := (es.take_sublist m).countP_le
    have hsplit : es ++ .core :: rest = es.take m ++ (es.drop m ++ .core :: rest) := by
      rw [← List.append_assoc, List.take_append_drop]
    obtain ⟨t, ht, ct, -⟩ := c.run (es.take m) hsplit (fun e he => hr e (List.mem_of_mem_take he)) (by omega)
    rw [List.length_take_of_le (by omega)] at ht
    rw [run_succ m hstart, ht] at hrun
    cases hrun
    exact ⟨ct.not_done, ct.busy⟩

end Sys2Proof.Machine

namespace Sys2Proof.Machine

/-! ### What a step can be, for the statements about one step (R69) -/

/-- A step that completed was a turn of the core, a host write, a reset, or a turn that changed the model's own fields at
most; `es` are the turns it left. -/
theorem of_step_next {s t : State} (h : step s = .next t) :
    ∃ es, coreTurn { s with inbox := es } = .next t ∨
      (∃ r, s.inbox = .ht r :: es ∧ isHostWrite (decodeHT r) = true ∧
        exec (decodeHT r) { s with inbox := es } = .next t) ∨
      s.inbox = .sig 1 :: es ∨ sameBlock s t := by
  cases hin : s.inbox with
  | nil =>
    rw [step_core hin] at h
    exact ⟨[], .inl (hin ▸ h)⟩
  | cons e es =>
    rw [step_event hin] at h
    refine ⟨es, ?_⟩
    rcases takeEvent_cases e { s with inbox := es } with ⟨-, he⟩ | ⟨r, rfl, hw, he⟩ | ⟨rfl, -⟩ | ⟨-, -, v, n, f, g, he⟩
    · exact .inl (he ▸ h)
    · exact .inr (.inl ⟨r, rfl, hw, he ▸ h⟩)
    · exact .inr (.inr (.inl rfl))
    · rw [he] at h
      cases h
      exact .inr (.inr (.inr rfl))

theorem BlockInv.popInbox {s : State} (inv : BlockInv s) (es : List Event) : BlockInv { s with inbox := es } :=
  { inv with }

/-! ### The digest is stable (R193) -/

@[simp] theorem renderByte_done (v : Byte) (s : State) : (renderByte v s).done = s.done := by
  rcases renderByte_cases v s with ⟨-, e⟩ | ⟨-, e⟩ <;> rw [e]

@[simp] theorem renderByte_dig (v : Byte) (s : State) : (renderByte v s).dig = s.dig := by
  rcases renderByte_cases v s with ⟨-, e⟩ | ⟨-, e⟩ <;> rw [e]

@[simp] theorem beginRenderMsg_done (s : State) : (beginRenderMsg s).done = s.done := by
  unfold beginRenderMsg
  split <;> rfl

@[simp] theorem beginRenderMsg_dig (s : State) : (beginRenderMsg s).dig = s.dig := by
  unfold beginRenderMsg
  split <;> rfl

/-- A turn of the core keeps a digest: while it is valid the block is idle or renders (R30). -/
theorem coreTurn_keeps_digest {s t : State} (inv : BlockInv s) (hd : s.done = true) (h : coreTurn s = .next t) :
    t.done = true ∧ t.dig = s.dig := by
  rcases inv.done_phase hd with hp | hp
  · rw [coreTurn_idle hp] at h
    cases h
    exact ⟨hd, rfl⟩
  · rw [coreTurn_eq, hp] at h
    obtain ⟨v, -, -, rfl⟩ := of_execRstep_next h
    exact ⟨(renderByte_done v s).trans hd, renderByte_dig v s⟩

/-- A host write keeps a digest unless it is an accepted `START` (R182). -/
theorem hostWrite_keeps_digest {i : Instr} (hi : isHostWrite i = true) {s t : State} (h : exec i s = .next t) :
    (t.done = s.done ∧ t.dig = s.dig) ∨
      (i = .start ∧ s.err = false ∧ s.busy = false ∧ s.len.toNat < 2 ^ 61 ∧ s.len.toNat ≤ s.cap.toNat) := by
  rcases of_hostWrite_next hi h with ⟨-, rfl⟩ | ⟨-, c, -, rfl⟩ | ⟨he, hb, acc⟩
  · exact .inl ⟨rfl, rfl⟩
  · exact .inl ⟨rfl, rfl⟩
  · rcases acc with ⟨rfl, hl, hc, -⟩ | ⟨-, -, rfl⟩ | ⟨-, -, rfl⟩ | ⟨d, -, rfl⟩ | ⟨a, v, -, -, rfl⟩
    · exact .inr ⟨rfl, he, hb, hl, hc⟩
    · exact .inl ⟨rfl, rfl⟩
    · exact .inl ⟨beginRenderMsg_done s, beginRenderMsg_dig s⟩
    · exact .inl ⟨rfl, rfl⟩
    · exact .inl ⟨rfl, rfl⟩

/-- Settles O30: neither agent writes `DONE` or `DIG` then, but for an accepted `START`. -/
theorem digestIsStable : Obligations.DigestIsStable := by
  intro s t inv hd h
  obtain ⟨es, hcore | ⟨r, hin, hw, hexec⟩ | hreset | hsame⟩ := of_step_next h
  · have hkeep := coreTurn_keeps_digest (inv.popInbox es) hd hcore
    exact .inl hkeep
  · rcases hostWrite_keeps_digest hw hexec with ⟨hdone, hdig⟩ | ⟨hstart, hopen⟩
    · exact .inl ⟨hdone.trans hd, hdig⟩
    · exact .inr (.inl ⟨r, es, hin, hstart, hopen⟩)
  · exact .inr (.inr ⟨es, hreset⟩)
  · rw [hsame]
    exact .inl ⟨hd, rfl⟩

/-! ### The transitions of the phase (R183) -/

/-- The transitions of R183's table that the host makes, in an idle block, or none. -/
def hostTransition (s t : State) : Prop :=
  t.ph = s.ph ∨ (s.ph = .idle ∧ t.ph = .load ∧ t.blk = 0 ∧ t.rnd = 0) ∨ (s.ph = .idle ∧ t.ph = .render ∧ t.hcnt = 0)

/-- The transitions of R183's table that the core makes, or none. -/
def coreTransition (s t : State) : Prop :=
  t.ph = s.ph ∨
  (s.ph = .load ∧ t.ph = .copy) ∨
  (s.ph = .copy ∧ t.ph = .round ∧ t.rnd = 0) ∨
  (s.ph = .round ∧ t.ph = .addback ∧ s.rnd = 63 ∧ t.rnd = 0) ∨
  (s.ph = .addback ∧ t.ph = .load ∧ s.blk.toNat + 1 < nblk s.len.toNat ∧ t.blk = s.blk + 1) ∨
  (s.ph = .addback ∧ t.ph = .serial ∧ s.blk.toNat + 1 = nblk s.len.toNat ∧ t.blk = s.blk + 1) ∨
  (s.ph = .serial ∧ t.ph = .idle) ∨
  (s.ph = .render ∧ t.ph = .idle ∧ 2 * (s.hcnt.toNat + 1) = s.hlen.toNat ∧ t.hcnt = s.hcnt + 1)

theorem beginRenderMsg_phase (s : State) :
    (beginRenderMsg s).ph = s.ph ∨ ((beginRenderMsg s).ph = .render ∧ (beginRenderMsg s).hcnt = 0) := by
  unfold beginRenderMsg
  split
  · exact .inl rfl
  · exact .inr ⟨rfl, rfl⟩

/-- Only an accepted command changes the phase, and it is accepted in an idle block only (R30, R182, R213, R214). -/
theorem hostWrite_transition {i : Instr} (hi : isHostWrite i = true) {s t : State} (inv : BlockInv s)
    (h : exec i s = .next t) : hostTransition s t := by
  rcases of_hostWrite_next hi h with ⟨-, rfl⟩ | ⟨-, c, -, rfl⟩ | ⟨-, hb, acc⟩
  · exact .inl rfl
  · exact .inl rfl
  · have hp := inv.idle_of_not_busy hb
    rcases acc with ⟨-, -, -, rfl⟩ | ⟨-, -, rfl⟩ | ⟨-, -, rfl⟩ | ⟨d, -, rfl⟩ | ⟨a, v, -, -, rfl⟩
    · exact .inr (.inl ⟨hp, rfl, rfl, rfl⟩)
    · exact .inr (.inr ⟨hp, rfl, rfl⟩)
    · exact (beginRenderMsg_phase s).imp_right fun hrender => .inr ⟨hp, hrender⟩
    · exact .inl rfl
    · exact .inl rfl

/-- The last block is followed by `SERIAL`, every other one by the next block (R159). -/
theorem addback_transition {s t : State} (inv : BlockInv s) (hp : s.ph = .addback) (h : execAddback s = .next t) :
    coreTransition s t := by
  have hlt := inv.block_lt (.inr (.inr (.inr hp)))
  cases h
  by_cases hlast : s.blk.toNat + 1 = nblk s.len.toNat
  · simp [coreTransition, hp, hlast]
  · have hmore : s.blk.toNat + 1 < nblk s.len.toNat := by omega
    simp [coreTransition, hp, hlast, hmore]

/-- A turn of the core makes the transition of its phase. -/
theorem coreTurn_transition {s t : State} (inv : BlockInv s) (h : coreTurn s = .next t) : coreTransition s t := by
  have hturn := h
  rw [coreTurn_eq] at h
  split at h
  · cases h
    exact .inl rfl
  · next hp =>
    obtain ⟨-, -, rfl⟩ := of_execLoadblk_next h
    simp [coreTransition, hp]
  · next hp =>
    cases h
    simp [coreTransition, hp]
  · next hp =>
    rw [coreTurn_round hp] at hturn
    cases hturn
    rcases advanceRound_cases s.rnd { s with w := roundEquation s.m s.rnd s.w } with ⟨hlast, e⟩ | ⟨-, e⟩ <;> rw [e]
    · simp [coreTransition, hp, hlast]
    · exact .inl rfl
  · next hp => exact addback_transition inv hp h
  · next hp =>
    cases h
    simp [coreTransition, hp]
  · next hp =>
    obtain ⟨v, -, -, rfl⟩ := of_execRstep_next h
    rcases renderByte_cases v s with ⟨hend, e⟩ | ⟨-, e⟩ <;> rw [e]
    · simp [coreTransition, hp, hend]
    · exact .inl rfl

/-- Settles O57: the host makes the transitions out of `IDLE` but for `RESET`, the core all the others. -/
theorem phaseTransitions : Obligations.PhaseTransitions := by
  intro s t inv h hreset
  obtain ⟨es, hcore | ⟨r, -, hw, hexec⟩ | hsig | hsame⟩ := of_step_next h
  · have hmove := coreTurn_transition (inv.popInbox es) hcore
    exact hmove.imp_right fun hmove => .inr (.inr hmove)
  · rcases hostWrite_transition hw (inv.popInbox es) hexec with hph | hload | hrender
    · exact .inl hph
    · exact .inr (.inl hload)
    · exact .inr (.inr (.inl hrender))
  · exact absurd hsig (hreset es)
  · rw [hsame]
    exact .inl rfl

end Sys2Proof.Machine

namespace Sys2Proof.Machine

/-! ### The hexadecimal characters and texts (R210 to R212, R217) -/

theorem nibChr_toNat_digit {n : BitVec 4} (h : n.toNat ≤ 9) : (nibChr n).toNat = 0x30 + n.toNat := by
  rw [nibChr, if_pos h, BitVec.toNat_ofNat]
  omega

theorem nibChr_toNat_letter {n : BitVec 4} (h : 10 ≤ n.toNat) : (nibChr n).toNat = 0x61 + (n.toNat - 10) := by
  rw [nibChr, if_neg (by omega), BitVec.toNat_ofNat]
  omega

/-- Settles O31: the two branches of `NIBCHR`, neither of which overflows a byte. -/
theorem hexCharacters : Obligations.HexCharacters := fun _ =>
  ⟨nibChr_toNat_digit, nibChr_toNat_letter⟩

/-- `val` inverts `NIBCHR` (R217). -/
theorem hexVal_nibChr (n : BitVec 4) : hexVal (nibChr n) = some n.toNat := by
  unfold hexVal
  by_cases h : n.toNat ≤ 9
  · have hchr := nibChr_toNat_digit h
    rw [if_pos (by omega), hchr, Nat.add_sub_cancel_left]
  · have hchr := nibChr_toNat_letter (by omega : 10 ≤ n.toNat)
    rw [if_neg (by omega), if_pos (by omega), hchr]
    congr 1
    omega

theorem hexVal_hexHigh (v : Byte) : hexVal (hexHigh v) = some (v.toNat / 16) := by
  rw [hexHigh, hexVal_nibChr, BitVec.extractLsb'_toNat, Nat.shiftRight_eq_div_pow]
  congr 1
  omega

theorem hexVal_hexLow (v : Byte) : hexVal (hexLow v) = some (v.toNat % 16) := by
  rw [hexLow, hexVal_nibChr, BitVec.extractLsb'_toNat]
  rfl

theorem hexStr_length (src : List Byte) : (hexStr src).length = 2 * src.length := by
  induction src with
  | nil => rfl
  | cons v rest ih =>
    simp only [hexStr, List.length_cons, ih]
    omega

/-- Character `2k` of a text is the first one of byte `k` (R212). -/
theorem hexStr_getElem?_high (src : List Byte) (k : Nat) : (hexStr src)[2 * k]? = src[k]?.map hexHigh := by
  induction src generalizing k with
  | nil => rfl
  | cons v rest ih =>
    cases k with
    | zero => rfl
    | succ k => exact ih k

/-- Character `2k + 1` of a text is the second one of byte `k` (R212). -/
theorem hexStr_getElem?_low (src : List Byte) (k : Nat) : (hexStr src)[2 * k + 1]? = src[k]?.map hexLow := by
  induction src generalizing k with
  | nil => rfl
  | cons v rest ih =>
    cases k with
    | zero => rfl
    | succ k => exact ih k

/-- Decoding a text gives the bytes back (R217). -/
theorem hexDecode_hexStr (src : List Byte) : hexDecode (hexStr src) = some src := by
  induction src with
  | nil => rfl
  | cons v rest ih =>
    have hv : BitVec.ofNat 8 (16 * (v.toNat / 16) + v.toNat % 16) = v := by
      rw [Nat.div_add_mod, BitVec.ofNat_toNat, BitVec.setWidth_eq]
    simp only [hexStr, hexDecode, hexVal_hexHigh, hexVal_hexLow, ih, hv]

/-- Settles O32: the text is injective because it can be decoded. -/
theorem hexRoundTrip : Obligations.HexRoundTrip := by
  intro src
  refine ⟨hexStr_length src, fun k hk => ⟨?_, ?_⟩, hexDecode_hexStr src, fun src' heq => ?_⟩
  · rw [hexStr_getElem?_high, List.getElem?_eq_getElem hk]
    rfl
  · rw [hexStr_getElem?_low, List.getElem?_eq_getElem hk]
    rfl
  · have hsome : some src' = some src := by rw [← hexDecode_hexStr src', heq, hexDecode_hexStr src]
    exact Option.some.inj hsome

end Sys2Proof.Machine

namespace Sys2Proof.Machine

/-! ### The commands of the Hex Renderer (R213, R214) -/

/-- A `RENDER.DIG` that meets all its conditions begins a render (R213). -/
theorem execRenderDig_accepted {s : State} (he : s.err = false) (hb : s.busy = false) (hd : s.done = true) :
    execRenderDig s = .next (beginRenderDig s) := by
  rw [execRenderDig, writeGate_open he hb, if_pos hd]

/-- A `RENDER.MSG` that meets all its conditions renders the message (R214). -/
theorem execRenderMsg_accepted {s : State} (he : s.err = false) (hb : s.busy = false)
    (hc : s.len.toNat ≤ s.cap.toNat) : execRenderMsg s = .next (beginRenderMsg s) := by
  rw [execRenderMsg, writeGate_open he hb, if_neg (by omega)]

/-- The empty text is complete at once (R214). -/
theorem beginRenderMsg_empty {s : State} (h : s.len = 0) :
    beginRenderMsg s = { s with rsrc := .message, hcnt := 0, hlen := 0, hexv := true } := by
  simp [beginRenderMsg, h]

theorem beginRenderMsg_nonempty {s : State} (h : s.len ≠ 0) :
    beginRenderMsg s = { s with
      rsrc := .message, hcnt := 0, hlen := 2 * s.len, hexv := false, busy := true, ph := .render } :=
  if_neg h

theorem beginRenderMsg_inbox (s : State) : (beginRenderMsg s).inbox = s.inbox := by
  unfold beginRenderMsg
  split <;> rfl

/-- A record whose low data byte is the command word `0x02` is `RENDER.DIG`, whatever its other data bits are (R82). -/
theorem decodeHT_renderDig {data : DWord} (h : data.toNat % 256 = 0x02) :
    decodeHT (htRecord 4 0 data) = .renderDig := by
  rw [decodeHT_htRecord, decodeFields_command, decodeCW_truncate, if_neg (by omega), if_pos h]

/-- A record whose low data byte is the command word `0x0A` is `RENDER.MSG`, whatever its other data bits are (R82). -/
theorem decodeHT_renderMsg {data : DWord} (h : data.toNat % 256 = 0x0A) :
    decodeHT (htRecord 4 0 data) = .renderMsg := by
  rw [decodeHT_htRecord, decodeFields_command, decodeCW_truncate, if_neg (by omega), if_neg (by omega), if_pos h]

/-- Settles O33: the write gate answers first, then the check of the digest. -/
theorem renderDigCommand : Obligations.RenderDigCommand := by
  refine ⟨fun s => ⟨fun he => ?_, fun he hb => ?_, fun he hb hd => ?_, execRenderDig_accepted⟩,
    fun _ => decodeHT_renderDig⟩
  · exact congrArg _ (writeGate_locked he)
  · exact congrArg _ (writeGate_busy he hb)
  · rw [exec, execRenderDig, writeGate_open he hb, if_neg (by simp [hd])]
    rfl

/-- Settles O34: the write gate answers first, then the check of the length; an accepted length is doubled exactly. -/
theorem renderMsgCommand : Obligations.RenderMsgCommand := by
  refine ⟨fun s => ⟨fun he => ?_, fun he hb => ?_, fun he hb hc => ?_, fun he hb hl => ?_, fun he hb hl hc => ?_⟩,
    fun _ => decodeHT_renderMsg⟩
  · exact congrArg _ (writeGate_locked he)
  · exact congrArg _ (writeGate_busy he hb)
  · rw [exec, execRenderMsg, writeGate_open he hb, if_pos hc]
    rfl
  · rw [exec, execRenderMsg_accepted he hb (by simp [hl]), beginRenderMsg_empty hl]
  · have hlen : BitVec.ofNat 64 (2 * s.len.toNat) = 2 * s.len := by
      rw [← two_mul_len_toNat hc, BitVec.ofNat_toNat, BitVec.setWidth_eq]
    rw [exec, execRenderMsg_accepted he hb hc, beginRenderMsg_nonempty hl, hlen]

end Sys2Proof.Machine

namespace Sys2Proof.Machine

/-! ### A render step (R215) -/

theorem memRead_writePair_high (m : Mem) (n : Nat) (x y : Byte) : memRead (writePair m n x y) (2 * n) = some x := by
  rw [writePair, memRead_memWrite_other _ _ (by omega), memRead_memWrite_same]

theorem memRead_writePair_low (m : Mem) (n : Nat) (x y : Byte) : memRead (writePair m n x y) (2 * n + 1) = some y :=
  memRead_memWrite_same _ _ _

theorem memRead_writePair_other (m : Mem) {n a : Nat} (x y : Byte) (hx : a ≠ 2 * n) (hy : a ≠ 2 * n + 1) :
    memRead (writePair m n x y) a = memRead m a := by
  rw [writePair, memRead_memWrite_other _ _ hy, memRead_memWrite_other _ _ hx]

/-- Byte number `j` of the source of a render exists and is `v`: a digest register or a written message byte (R213,
R214). -/
def sourceByte (s : State) (j : Nat) (v : Byte) : Prop :=
  (s.rsrc = .digest ∧ j < 16 ∧ s.dig[j]? = some v) ∨
  (s.rsrc = .message ∧ j < s.cap.toNat ∧ memRead s.msg j = some v)

theorem rstepSource_of_sourceByte {s : State} {v : Byte} (h : sourceByte s s.hcnt.toNat v) :
    rstepSource s = .ok v := by
  rcases h with ⟨hsrc, hlt, hdig⟩ | ⟨hsrc, hlt, hmsg⟩
  · have hcell : digCell s s.hcnt.toNat = some v := by simpa [digCell, hlt] using hdig
    simp [rstepSource, hsrc, hcell]
  · simp [rstepSource, hsrc, msgCell_of_memRead hlt hmsg]

/-- The hex memory has the two cells of every source byte (R8). -/
theorem hexCellsExist_of_sourceByte {s : State} {j : Nat} {v : Byte} (h : sourceByte s j v) :
    hexCellsExist s j = true := by
  rcases h with ⟨-, hlt, -⟩ | ⟨-, hlt, -⟩ <;> simp [hexCellsExist, hlt]

/-- With its source byte present a render step completes (R215). -/
theorem execRstep_next {s : State} {v : Byte} (h : sourceByte s s.hcnt.toNat v) :
    execRstep s = .next (renderByte v s) := by
  simp [execRstep, rstepSource_of_sourceByte h, hexCellsExist_of_sourceByte h]

/-- The last byte ends the render (R215). -/
theorem renderByte_last {s : State} (v : Byte) (h : 2 * (s.hcnt.toNat + 1) = s.hlen.toNat) :
    renderByte v s = { s with
      hexo := writePair s.hexo s.hcnt.toNat (hexHigh v) (hexLow v)
      hcnt := s.hcnt + 1, hexv := true, busy := false, ph := .idle } :=
  if_pos h

/-- Every byte but the last leaves the render in progress (R215). -/
theorem renderByte_of_ne_last {s : State} (v : Byte) (h : 2 * (s.hcnt.toNat + 1) ≠ s.hlen.toNat) :
    renderByte v s = { s with
      hexo := writePair s.hexo s.hcnt.toNat (hexHigh v) (hexLow v), hcnt := s.hcnt + 1 } :=
  if_neg h

/-- Settles O35: the source byte is present, so the step completes, and it writes the two characters of that byte. -/
theorem rstepRendersOneByte : Obligations.RstepRendersOneByte := by
  intro s v hsrc
  have hstep : exec .rstep s = .next (renderByte v s) := execRstep_next hsrc
  refine ⟨writePair s.hexo s.hcnt.toNat (hexHigh v) (hexLow v), fun hend => ?_, fun hmore => ?_,
    memRead_writePair_high _ _ _ _, memRead_writePair_low _ _ _ _, fun a => memRead_writePair_other _ _ _⟩
  · rw [hstep, renderByte_last v hend]
  · rw [hstep, renderByte_of_ne_last v hmore]

end Sys2Proof.Machine

namespace Sys2Proof.Machine

/-! ### Work of the core between turns of the host (R269)

A busy block works through numbered positions, one for each turn of the core; the turns of the host between them leave
the position as it is. -/

/-- `P n` holds of the busy block at position `n`, whatever the host does, and below the position `last` a turn of the
core completes and leads to the next one. -/
structure CoreWork (P : Nat → State → Prop) (last : Nat) : Prop where
  busy {n s} : P n s → s.busy = true
  of_sameBusy {n s t} : P n s → sameBusy s t → P n t
  coreTurn {n s} : P n s → n < last → ∃ t, coreTurn s = .next t ∧ P (n + 1) t ∧ t.inbox = s.inbox

/-- A turn of either agent takes the work on by the turns of the core it counts. -/
theorem CoreWork.step {P : Nat → State → Prop} {last n : Nat} {s : State} {e : Event} {rest : List Event}
    (work : CoreWork P last) (hs : P n s) (hin : s.inbox = e :: rest) (hr : notReset e = true)
    (hn : n + coreTurns [e] ≤ last) :
    ∃ t, step s = .next t ∧ P (n + coreTurns [e]) t ∧ t.inbox = rest := by
  have hs' : P n { s with inbox := rest } := work.of_sameBusy hs rfl
  rw [step_event hin]
  by_cases he : e = .core
  · subst he
    exact work.coreTurn hs' hn
  · obtain ⟨t, ht, hst, hrest⟩ := takeEvent_busy (work.busy hs') hr he
    have hzero : coreTurns [e] = 0 := by simp [coreTurns, he]
    rw [hzero]
    exact ⟨t, ht, work.of_sameBusy hs' hst, hrest⟩

/-- A list of turns without a reset takes the work on by the turns of the core it counts. -/
theorem CoreWork.run {P : Nat → State → Prop} {last : Nat} (work : CoreWork P last) {rest : List Event}
    (es : List Event) :
    ∀ {n : Nat} {s : State}, P n s → s.inbox = es ++ rest → (∀ e ∈ es, notReset e = true) →
      n + coreTurns es ≤ last →
      ∃ t, Sys2Proof.core.run es.length s = .next t ∧ P (n + coreTurns es) t ∧ t.inbox = rest := by
  induction es with
  | nil => exact fun hs hin _ _ => ⟨_, rfl, hs, hin⟩
  | cons e es ih =>
    intro n s hs hin hr hn
    have hcount : coreTurns (e :: es) = coreTurns [e] + coreTurns es := List.countP_append (l₁ := [e])
    rw [hcount, ← Nat.add_assoc] at hn ⊢
    obtain ⟨t, ht, hPt, htin⟩ := work.step hs hin (hr e List.mem_cons_self) (by omega)
    obtain ⟨u, hu, hPu, huin⟩ := ih hPt htin (fun e he => hr e (List.mem_cons_of_mem _ he)) hn
    exact ⟨u, (run_succ es.length ht).trans hu, hPu, huin⟩

end Sys2Proof.Machine

namespace Sys2Proof.Machine

/-! ### The law of a render (R216) -/

/-- The hex memory holds the characters of the first `n` bytes of `src`. -/
def holdsText (m : Mem) (src : List Byte) (n : Nat) : Prop :=
  ∀ p, p < 2 * n → memRead m p = (hexStr src)[p]?

/-- Writing the characters of byte `n` of `src` takes the text one byte on. -/
theorem holdsText.writePair {m : Mem} {src : List Byte} {n : Nat} {v : Byte} (h : holdsText m src n)
    (hv : src[n]? = some v) : holdsText (writePair m n (hexHigh v) (hexLow v)) src (n + 1) := by
  intro p hp
  have hcases : p = 2 * n ∨ p = 2 * n + 1 ∨ p < 2 * n := by omega
  rcases hcases with rfl | rfl | hlt
  · rw [memRead_writePair_high, hexStr_getElem?_high, hv, Option.map_some]
  · rw [memRead_writePair_low, hexStr_getElem?_low, hv, Option.map_some]
  · rw [memRead_writePair_other _ _ _ (by omega) (by omega), h p hlt]

/-- After `n` turns of the core the block renders byte `n` of `src`. -/
structure Rendering (src : List Byte) (n : Nat) (s : State) : Prop where
  busy : s.busy = true
  ph : s.ph = .render
  hcnt : s.hcnt.toNat = n
  hlen : s.hlen.toNat = 2 * src.length
  source : ∀ (j : Nat) (hj : j < src.length), sourceByte s j src[j]
  text : holdsText s.hexo src n

theorem Rendering.of_sameBusy {src : List Byte} {n : Nat} {s t : State} (r : Rendering src n s) (hst : sameBusy s t) :
    Rendering src n t := by
  rw [hst]
  exact { r with }

/-- A turn of the core renders byte `n` (R215). -/
theorem Rendering.coreTurn_eq {src : List Byte} {n : Nat} {s : State} (r : Rendering src n s) (hn : n < src.length) :
    coreTurn s = .next (renderByte src[n] s) := by
  have hsrc : sourceByte s s.hcnt.toNat src[n] := by
    rw [r.hcnt]
    exact r.source n hn
  rw [Machine.coreTurn_eq, r.ph]
  exact execRstep_next hsrc

/-- The hex memory after byte `n` has been rendered. -/
theorem Rendering.text_succ {src : List Byte} {n : Nat} {s : State} (r : Rendering src n s) (hn : n < src.length) :
    holdsText (writePair s.hexo s.hcnt.toNat (hexHigh src[n]) (hexLow src[n])) src (n + 1) := by
  rw [r.hcnt]
  exact r.text.writePair (List.getElem?_eq_getElem hn)

/-- Before the last byte a turn of the core leaves the render in progress. -/
theorem Rendering.coreTurn {src : List Byte} {n : Nat} {s : State} (r : Rendering src n s) (hn : n < src.length - 1) :
    ∃ t, coreTurn s = .next t ∧ Rendering src (n + 1) t ∧ t.inbox = s.inbox := by
  have hcnt := r.hcnt
  have hlen := r.hlen
  have hsucc : (s.hcnt + 1).toNat = n + 1 := by
    rw [BitVec.toNat_add_of_lt (by simp; omega), hcnt]
    rfl
  rw [r.coreTurn_eq (by omega), renderByte_of_ne_last _ (by omega)]
  exact ⟨_, rfl, { r with hcnt := hsucc, text := r.text_succ (by omega) }, rfl⟩

theorem renderWork (src : List Byte) : CoreWork (Rendering src) (src.length - 1) where
  busy := Rendering.busy
  of_sameBusy := Rendering.of_sameBusy
  coreTurn := Rendering.coreTurn

/-- The render of `src` has ended: the whole text is in the hex memory (R216). -/
structure Rendered (src : List Byte) (s : State) : Prop where
  hexv : s.hexv = true
  not_busy : s.busy = false
  ph : s.ph = .idle
  hlen : s.hlen.toNat = 2 * src.length
  text : holdsText s.hexo src src.length

/-- The last byte ends the render (R215). -/
theorem Rendering.coreTurn_last {src : List Byte} {n : Nat} {s : State} (r : Rendering src n s)
    (hn : n + 1 = src.length) : ∃ t, Machine.coreTurn s = .next t ∧ Rendered src t ∧ t.inbox = s.inbox := by
  have hend : 2 * (s.hcnt.toNat + 1) = s.hlen.toNat := by rw [r.hcnt, r.hlen, hn]
  have htext := r.text_succ (by omega)
  rw [hn] at htext
  rw [r.coreTurn_eq (by omega), renderByte_last _ hend]
  exact ⟨_, rfl, ⟨rfl, rfl, rfl, r.hlen, htext⟩, rfl⟩

theorem Rendering.step_last {src : List Byte} {n : Nat} {s : State} {rest : List Event} (r : Rendering src n s)
    (hn : n + 1 = src.length) (hin : s.inbox = .core :: rest) :
    ∃ t, step s = .next t ∧ Rendered src t ∧ t.inbox = rest := by
  have r' : Rendering src n { s with inbox := rest } := r.of_sameBusy rfl
  rw [step_event hin]
  exact r'.coreTurn_last hn

/-- An accepted `RENDER.DIG` begins to render the sixteen digest bytes (R213). -/
theorem rendering_beginRenderDig (s : State) : Rendering s.dig.toList 0 (beginRenderDig s) where
  busy := rfl
  ph := rfl
  hcnt := rfl
  hlen := by simp
  source := fun j hj => .inl ⟨rfl, by simpa using hj, by simp⟩
  text := nofun

/-- An accepted `RENDER.MSG` of a message that is not empty begins to render its bytes (R214). -/
theorem rendering_beginRenderMsg {src : List Byte} {s : State} (hlen : src.length = s.len.toNat)
    (hc : s.len.toNat ≤ s.cap.toNat) (hne : s.len ≠ 0)
    (hm : ∀ (j : Nat) (hj : j < src.length), memRead s.msg j = some src[j]) :
    Rendering src 0 (beginRenderMsg s) := by
  rw [beginRenderMsg_nonempty hne]
  exact {
    busy := rfl
    ph := rfl
    hcnt := rfl
    hlen := hlen ▸ two_mul_len_toNat hc
    source := fun j hj => .inr ⟨rfl, by simp; omega, hm j hj⟩
    text := nofun }

/-- What an accepted render of `src` needs of the command word `cw` and the state (R213, R214). -/
def renderAccepted (s : State) (src : List Byte) (cw : DWord) : Prop :=
  (cw = 0x02 ∧ s.done = true ∧ src = s.dig.toList) ∨
  (cw = 0x0A ∧ src.length = s.len.toNat ∧ s.len.toNat ≤ s.cap.toNat ∧ s.len ≠ 0 ∧
    ∀ (j : Nat) (hj : j < src.length), memRead s.msg j = some src[j])

/-- A turn that is an accepted render command begins the render (R213, R214). -/
theorem step_render {s : State} {src : List Byte} {cw : DWord} {es : List Event} (he : s.err = false)
    (hb : s.busy = false) (hacc : renderAccepted s src cw) (hin : s.inbox = .ht (htRecord 4 0 cw) :: es) :
    ∃ t, step s = .next t ∧ Rendering src 0 t ∧ t.inbox = es := by
  rw [step_event hin, takeEvent]
  rcases hacc with ⟨rfl, hd, rfl⟩ | ⟨rfl, hlen, hc, hne, hm⟩
  · rw [decodeHT_renderDig (by decide)]
    exact ⟨_, execRenderDig_accepted (s := { s with inbox := es }) he hb hd,
      rendering_beginRenderDig { s with inbox := es }, rfl⟩
  · rw [decodeHT_renderMsg (by decide)]
    exact ⟨_, execRenderMsg_accepted (s := { s with inbox := es }) he hb hc,
      rendering_beginRenderMsg hlen hc hne hm, beginRenderMsg_inbox _⟩

/-- Settles O36: the command begins the render, the turns up to the last byte take it on, and that byte ends it. -/
theorem renderComputation : Obligations.RenderComputation := by
  intro s src cw es rest he hb hacc hin hr hcount
  have hin' : s.inbox = .ht (htRecord 4 0 cw) :: (es ++ .core :: rest) := by simp [hin]
  obtain ⟨t, ht, rt, htin⟩ := step_render he hb hacc hin'
  obtain ⟨u, hu, ru, huin⟩ := (renderWork src).run es rt htin hr (by omega)
  obtain ⟨v, hv, done, hvin⟩ := ru.step_last (by omega) huin
  refine ⟨v, (run_succ _ ht).trans (run_snoc hu hv), done.hexv, done.not_busy, done.ph, done.hlen, hvin,
    fun p hp => ?_⟩
  rw [done.text p (hexStr_length src ▸ hp), List.getElem?_eq_getElem hp]

end Sys2Proof.Machine

namespace Sys2Proof.Machine

/-! ### The write gate of the host port (R238) -/

/-- Settles O45: every host write answers through the gate, which looks at `ERR` before it looks at `BUSY`
(`writeGate` itself is the model's gate). -/
theorem writeGate_holds : Obligations.WriteGate := by
  intro i s hi
  refine ⟨fun he => ?_, fun he hb => ?_⟩
  · obtain ⟨t, ht⟩ := exec_hostWrite hi s
    rw [ht, writeGate_locked he]
  · rw [exec_hostWrite_busy hi hb, he]
    rfl

section
variable {s : State} (he : s.err = false) (hb : s.busy = false)
include he hb

/-- A write that the gate lets pass and whose own rule refuses it raises that cause. -/
theorem next_writeGate_refusal (c : Cause) :
    (.next (writeGate s (raiseRefusal c s)) : Result) = .next { s with err := true, ecode := c } := by
  rw [writeGate_open he hb]
  rfl

theorem exec_hwrMsg_inRange {addr : DWord} (ha : addr.toNat < s.cap.toNat) (value : Byte) :
    exec (.hwrMsg addr value) s = .next { s with msg := memWrite s.msg addr.toNat value } := by
  rw [exec, execHwrMsg, writeGate_open he hb, if_pos ha]

theorem exec_hwrMsg_outOfRange {addr : DWord} (ha : s.cap.toNat ≤ addr.toNat) (value : Byte) :
    exec (.hwrMsg addr value) s = .next { s with err := true, ecode := .badWrite } := by
  rw [exec, execHwrMsg, if_neg (by omega), next_writeGate_refusal he hb]

end

/-- Settles O43: the gate, then the check of the address; a write is read back at its own address only. -/
theorem messageWrites : Obligations.MessageWrites := by
  refine ⟨fun s addr value => ?_, fun addr data => ?_⟩
  · obtain ⟨locked, busy⟩ := writeGate_holds (.hwrMsg addr value) s rfl
    refine ⟨locked, busy, fun he hb ha => ?_, fun he hb ha => exec_hwrMsg_outOfRange he hb ha value⟩
    exact ⟨memWrite s.msg addr.toNat value, exec_hwrMsg_inRange he hb ha value, memRead_memWrite_same _ _ _,
      fun _ hne => memRead_memWrite_other _ _ hne⟩
  · rw [decodeHT_htRecord, decodeFields_message, BitVec.ofNat_toNat]

/-- Settles O44: the gate, and in an open block the refusal, which looks at no address. -/
theorem resultSpacesAreReadOnly : Obligations.ResultSpacesAreReadOnly := by
  refine ⟨fun s addr data => ?_, fun addr data => ⟨decodeHT_htRecord 6 addr data, decodeHT_htRecord 7 addr data⟩⟩
  obtain ⟨digLocked, digBusy⟩ := writeGate_holds (.hwrDig addr data) s rfl
  obtain ⟨hexoLocked, hexoBusy⟩ := writeGate_holds (.hwrHexo addr data) s rfl
  exact ⟨fun he => ⟨digLocked he, hexoLocked he⟩, fun he hb => ⟨digBusy he hb, hexoBusy he hb⟩,
    fun he hb => ⟨next_writeGate_refusal he hb _, next_writeGate_refusal he hb _⟩⟩

/-- Settles O42: in an open block each register write does what its own rule gives; the rows are the decoder's. -/
theorem registerWrites : Obligations.RegisterWrites := by
  intro s he hb
  refine ⟨fun data => ?_, fun _ _ _ _ => next_writeGate_refusal he hb _,
    fun _ _ _ _ => next_writeGate_refusal he hb _, fun _ => rfl, fun addr data h0 h2 => ?_, fun data => ?_⟩
  · rw [exec, execHwrRegLen, writeGate_open he hb]
  · exact decodeFields_register (by simpa [writableRegister] using ⟨h0, h2⟩) data
  · rw [decodeFields_command, decodeCW_truncate, BitVec.ofNat_toNat]
    refine ⟨fun h => if_pos h, fun h => ?_, fun h => ?_, fun h1 h2 hA => ?_⟩
    · simp [h]
    · simp [h]
    · simp [h1, h2, hA]

end Sys2Proof.Machine

namespace Sys2Proof.Machine

/-! ### The values of the host reads (R231 to R234) -/

/-- The four flags of `STATUS` lie at different bits, so the byte is the sum of their weights (R31). -/
theorem statusByte_toNat (s : State) :
    (statusByte s).toNat = s.busy.toNat + 2 * s.done.toNat + 4 * s.hexv.toNat + 8 * s.err.toNat := by
  have hflags : ∀ b d x e : Bool, (flagBit 0 b ||| flagBit 1 d ||| flagBit 2 x ||| flagBit 3 e).toNat =
      b.toNat + 2 * d.toNat + 4 * x.toNat + 8 * e.toNat := by decide
  exact hflags s.busy s.done s.hexv s.err

/-- The register numbers above 5 read 0 (R231). -/
theorem regValue_of_five_lt (s : State) {addr : DWord} (h : 5 < addr.toNat) : regValue s addr = 0 := by
  unfold regValue
  split
  case h_7 => rfl
  all_goals omega

/-- Settles O37: the value returned is `regValue`, taken at each register number. -/
theorem registerReads : Obligations.RegisterReads := by
  refine fun s addr => ⟨regValue s addr, rfl, ?_, ?_, ?_, ?_, ?_, ?_, regValue_of_five_lt s⟩
  all_goals rintro rfl
  · rfl
  · show ((statusByte s).zeroExtend 64).toNat = _
    rw [BitVec.toNat_setWidth_of_le (by decide), statusByte_toNat]
  · rfl
  · show ((causeCode s.ecode).zeroExtend 64).toNat = _
    cases s.ecode <;> rfl
  · rfl
  · exact BitVec.toNat_setWidth_of_le (by decide)

/-- A read of a byte that has a value returns it as a number (R81). -/
theorem next_returnByte_of_some {b : Option Byte} {v : Byte} (h : b = some v) (s : State) :
    (.next (returnByte b s) : Result) = .next { s with rdata := BitVec.ofNat 64 v.toNat } := by
  rw [h, returnByte_some, BitVec.ofNat_toNat]
  rfl

/-- A read of a byte that has none draws a free byte (log 5). -/
theorem next_returnByte_of_none {b : Option Byte} (h : b = none) (s : State) :
    (.next (returnByte b s) : Result) =
      .next { s with rdata := BitVec.ofNat 64 (Config.draw8 s.draws).toNat, draws := s.draws + 1 } := by
  rw [h, returnByte_none, BitVec.ofNat_toNat]
  rfl

/-- Settles O38: a message byte is valid when its cell exists and is written. -/
theorem messageReads : Obligations.MessageReads := fun s _ =>
  ⟨fun _ ha hv => next_returnByte_of_some (msgCell_of_memRead ha hv) s,
    fun h => next_returnByte_of_none (msgCell_eq_none h) s⟩

theorem validDig_of_done {s : State} {addr : DWord} (hd : s.done = true) (h : addr.toNat < 16) :
    validDig s addr = some s.dig[addr.toNat] := by
  rw [validDig, if_pos hd, digCell, dif_pos h]

theorem validDig_eq_none {s : State} {addr : DWord} (h : s.done = false ∨ 16 ≤ addr.toNat) : validDig s addr = none := by
  rcases h with hd | ha
  · simp [validDig, hd]
  · simp [validDig, digCell, Nat.not_lt.mpr ha]

/-- Settles O39: a digest byte is valid while `DONE = 1`, for the sixteen registers that exist. -/
theorem digestReads : Obligations.DigestReads := fun s _ =>
  ⟨fun ha hd => next_returnByte_of_some (validDig_of_done hd ha) s,
    fun h => next_returnByte_of_none (validDig_eq_none h) s⟩

theorem validHexo_of_valid {s : State} {addr : DWord} (hx : s.hexv = true) (ha : addr.toNat < s.hlen.toNat) :
    validHexo s addr = memRead s.hexo addr.toNat := by
  simp [validHexo, hx, ha]

theorem validHexo_eq_none {s : State} {addr : DWord} (h : s.hexv = false ∨ s.hlen.toNat ≤ addr.toNat) :
    validHexo s addr = none := by
  rcases h with hx | ha
  · simp [validHexo, hx]
  · simp [validHexo, Nat.not_lt.mpr ha]

/-- Settles O40: the invariant says that every character of a valid text is written. -/
theorem hexTextReads : Obligations.HexTextReads := by
  refine fun s addr => ⟨fun inv hx ha => ?_, fun h => next_returnByte_of_none (validHexo_eq_none h) s⟩
  obtain ⟨v, hv⟩ := Option.isSome_iff_exists.mp (inv.hexv_written hx addr.toNat ha)
  exact ⟨v, hv, next_returnByte_of_some ((validHexo_of_valid hx ha).trans hv) s⟩

end Sys2Proof.Machine

namespace Sys2Proof.Machine

/-! ### Bytes nothing has written (R41, R274) -/

/-- `LOADBLK` of a block that exists stops at a message byte of that block that has no value (log 4). -/
theorem execLoadblk_unwritten {s : State} {j : Nat} (hl : s.len.toNat < 2 ^ 61) (hb : s.blk.toNat < nblk s.len.toNat)
    (hlow : 64 * s.blk.toNat ≤ j) (hhigh : j < 64 * s.blk.toNat + 64) (hj : j < s.len.toNat)
    (hnone : msgCell s j = none) : execLoadblk s = .fault .unwrittenRead := by
  have hexists := (blockExists_iff s).mpr ⟨hl, hb⟩
  rcases execLoadblk_cases s with ⟨-, hwritten, -⟩ | ⟨-, -, e⟩ | ⟨hmissing, -⟩
  · obtain ⟨k, rfl⟩ := Nat.exists_eq_add_of_le hlow
    have hsome := (blockWritten_iff s).mp hwritten k (by omega) hj
    simp [hnone] at hsome
  · exact e
  · simp [hexists] at hmissing

/-- `RSTEP` of the message stops at a source byte that has no value (log 4). -/
theorem execRstep_unwritten {s : State} (hsrc : s.rsrc = .message) (hnone : msgCell s s.hcnt.toNat = none) :
    execRstep s = .fault .unwrittenRead := by
  have hbyte : rstepSource s = .error .unwrittenRead := by simp [rstepSource, hsrc, hnone]
  simp [execRstep, hbyte]

/-- Settles O19: a byte that is not written, or whose cell does not exist, has no value for the core. -/
theorem unwrittenReadFaults : Obligations.UnwrittenReadFaults := fun _ =>
  ⟨fun _ hl hb hlow hhigh hj hmissing => execLoadblk_unwritten hl hb hlow hhigh hj (msgCell_eq_none hmissing),
    fun hsrc hmissing => execRstep_unwritten hsrc (msgCell_eq_none hmissing)⟩

end Sys2Proof.Machine

namespace Sys2Proof.Machine

/-! ### The refusal registers (R262, R263, R265, R269) -/

/-- An accepted host write leaves `ERR` as it is (R262). -/
theorem writeAccepted_err {i : Instr} {s t : State} (h : writeAccepted i s t) : t.err = s.err := by
  rcases h with ⟨-, -, -, rfl⟩ | ⟨-, -, rfl⟩ | ⟨-, -, rfl⟩ | ⟨d, -, rfl⟩ | ⟨a, v, -, -, rfl⟩
  · rfl
  · rfl
  · unfold beginRenderMsg
    split <;> rfl
  · rfl
  · rfl

/-- Settles O46: in a block that is not locked a host write is refused or accepted, and accepting it does not set
`ERR`. -/
theorem refusalWritesErrOnly : Obligations.RefusalWritesErrOnly := by
  refine ⟨fun _ _ => rfl, fun i s t hi he h hset => ?_⟩
  rcases of_hostWrite_next hi h with ⟨hlocked, -⟩ | ⟨-, hrefused⟩ | ⟨-, -, acc⟩
  · simp [he] at hlocked
  · exact hrefused
  · simp [writeAccepted_err acc, he] at hset

/-- Only a host write or `RESET` changes `ERR` or `ECODE` (R37). -/
theorem exec_keeps_refusal {i : Instr} {s t : State} (hw : isHostWrite i = false) (hi : i ≠ .reset)
    (h : exec i s = .next t) : t.err = s.err ∧ t.ecode = s.ecode := by
  obtain ⟨-, -, -, -, -, -, -, -, -, -, -, -, -, -, -, -, hwriter, -⟩ := whoWritesWhat i s t h hi
  have hnone : ¬ (t.err ≠ s.err ∨ t.ecode ≠ s.ecode) := fun hne => by simp [hwriter hne] at hw
  simpa using hnone

/-- Settles O47: a locked block drops every host write, and no other operation but `RESET` writes the two registers. -/
theorem firstCauseIsKept : Obligations.FirstCauseIsKept := by
  intro i s t h hi
  refine ⟨fun he => ?_, fun hw => exec_keeps_refusal hw hi h⟩
  cases hw : isHostWrite i with
  | true =>
    rcases of_hostWrite_next hw h with ⟨-, rfl⟩ | ⟨hopen, -⟩ | ⟨hopen, -⟩
    · exact ⟨he, rfl⟩
    · simp [he] at hopen
    · simp [he] at hopen
  | false =>
    obtain ⟨herr, hecode⟩ := exec_keeps_refusal hw hi h
    exact ⟨herr.trans he, hecode⟩

/-- What the host can change in a busy block is `ERR`, `ECODE` and the model's own fields. -/
theorem sameBlock_of_sameBusy {s t : State} (h : sameBusy s t) :
    sameBlock { s with err := t.err, ecode := t.ecode } t := h

/-- Settles O48: a busy block drops or refuses a host write, and every other such turn changes the model's own fields at
most. -/
theorem hostCannotDisturb : Obligations.HostCannotDisturb := by
  intro s e hb hc hr
  obtain ⟨t, ht, hsame, hin⟩ := takeEvent_busy hb hr hc
  exact ⟨t, ht, sameBlock_of_sameBusy hsame, hin⟩

end Sys2Proof.Machine

namespace Sys2Proof.Machine

/-! ### What can stop a step (R260, R274) -/

/-- The step completes, or it is the model fault `UnwrittenRead`. -/
def completesOrUnwritten (r : Result) : Prop := (∃ t, r = .next t) ∨ r = .fault .unwrittenRead

theorem completesOrUnwritten_next (t : State) : completesOrUnwritten (.next t) := .inl ⟨t, rfl⟩

/-- In its phase `LOADBLK` has a block to load (R30). -/
theorem BlockInv.loadblk_completesOrUnwritten {s : State} (inv : BlockInv s) (hp : s.ph = .load) :
    completesOrUnwritten (execLoadblk s) := by
  have hin : inBlock s.ph := .inl hp
  obtain ⟨hl, -⟩ := inv.len_legal (.inl hin)
  have hexists := (blockExists_iff s).mpr ⟨hl, inv.block_lt hin⟩
  rcases execLoadblk_cases s with ⟨-, -, e⟩ | ⟨-, -, e⟩ | ⟨hmissing, -⟩
  · exact .inl ⟨_, e⟩
  · exact .inr e
  · simp [hexists] at hmissing

/-- In its phase `RSTEP` has a source byte whose cell exists, and only that of a message can be unwritten (R213,
R214). -/
theorem BlockInv.rstep_completesOrUnwritten {s : State} (inv : BlockInv s) (hp : s.ph = .render) :
    completesOrUnwritten (execRstep s) := by
  have hlt := inv.render_lt hp
  cases hsrc : s.rsrc with
  | digest =>
    obtain ⟨-, hlen⟩ := inv.render_digest hp hsrc
    have hchars : s.hlen.toNat = 32 := congrArg BitVec.toNat hlen
    have hbyte : s.hcnt.toNat < 16 := by omega
    exact .inl ⟨_, execRstep_next (.inl ⟨hsrc, hbyte, Vector.getElem?_eq_getElem hbyte⟩)⟩
  | message =>
    obtain ⟨hcap, hlen⟩ := inv.render_message hp hsrc
    cases hread : memRead s.msg s.hcnt.toNat with
    | some v => exact .inl ⟨_, execRstep_next (.inr ⟨hsrc, by omega, hread⟩)⟩
    | none => exact .inr (execRstep_unwritten hsrc (msgCell_eq_none (.inr hread)))

/-- A turn of the core, phase by phase: only `LOADBLK` and `RSTEP` can stop. -/
theorem BlockInv.coreTurn_completesOrUnwritten {s : State} (inv : BlockInv s) :
    completesOrUnwritten (Machine.coreTurn s) := by
  by_cases hr : s.ph = .round
  · rw [coreTurn_round hr]
    exact completesOrUnwritten_next _
  · rw [coreTurn_eq]
    split
    · exact completesOrUnwritten_next _
    · next hp => exact inv.loadblk_completesOrUnwritten hp
    · exact completesOrUnwritten_next _
    · next hp => exact absurd hp hr
    · exact completesOrUnwritten_next _
    · exact completesOrUnwritten_next _
    · next hp => exact inv.rstep_completesOrUnwritten hp

/-- Only a turn of the core can stop: the turns of the host complete. -/
theorem BlockInv.takeEvent_completesOrUnwritten {s : State} (inv : BlockInv s) (e : Event) :
    completesOrUnwritten (Machine.takeEvent e s) := by
  rcases takeEvent_cases e s with ⟨-, he⟩ | ⟨r, -, hw, he⟩ | ⟨-, he⟩ | ⟨-, -, v, n, f, g, he⟩
  · rw [he]
    exact inv.coreTurn_completesOrUnwritten
  · obtain ⟨t, ht⟩ := exec_hostWrite hw s
    exact .inl ⟨_, he.trans ht⟩
  · exact .inl ⟨_, he⟩
  · exact .inl ⟨_, he⟩

/-- Settles O53: the step is a turn of the core, or the turn at the head of the inbox once that is taken off. -/
theorem onlyUnwrittenReadStops : Obligations.OnlyUnwrittenReadStops := by
  intro s inv
  cases hin : s.inbox with
  | nil =>
    rw [step_core hin]
    exact inv.coreTurn_completesOrUnwritten
  | cons e rest =>
    rw [step_event hin]
    exact (inv.popInbox rest).takeEvent_completesOrUnwritten e

end Sys2Proof.Machine

namespace Sys2Proof.Machine

/-! ### The operation `RESET` (R290, R291) -/

/-- `RESET` has no condition: no lock, no busy block and no phase stops it. -/
theorem exec_reset (s : State) : exec .reset s = .next (resetBlock s) := rfl

/-- The block after `RESET` as an update of the block before it, field by field: the registers R40 gives no value are
free, and what is not listed (`CAP` and the model's own `rdata`, `fOut`, `gOut`, `inbox`) keeps its value. -/
theorem resetBlock_eq (s : State) :
    resetBlock s = { s with
      h := (resetBlock s).h, w := (resetBlock s).w, m := (resetBlock s).m, dig := (resetBlock s).dig
      ph := .idle, blk := 0, rnd := 0, hcnt := 0, rsrc := .digest
      busy := false, done := false, hexv := false, err := false, ecode := .none, len := 0, hlen := 0
      msg := [], hexo := [], draws := s.draws + 40 } := rfl

/-- Settles O50: the step completes with `resetBlock`, whose four registers without a value are the witnesses. -/
theorem resetOperation : Obligations.ResetOperation := by
  intro s
  refine ⟨(resetBlock s).h, (resetBlock s).w, (resetBlock s).m, (resetBlock s).dig, s.draws + 40, ?_⟩
  rw [exec_reset, ← resetBlock_eq]

end Sys2Proof.Machine
